-- ==== Sys2Proof/Word.lean ====
section
/-! DEFINITION. The widths every other file speaks in, and the two motor channels (spec/00_scope.md R5, R8). -/

namespace Sys2Proof

/-- A command word, RESULT, or a register zero-extended for the `result` port (R5, R61). -/
abbrev Word := BitVec 32

/-- One byte of a word on a host bus that carries bytes (20_memory.md R53). -/
abbrev Byte := BitVec 8

/-- A pattern of the four coils: bit 3 is coil1, bit 0 is coil4 (R7, 20_memory.md R51). -/
abbrev Pattern := BitVec 4

/-- The two motor channels, 0 and 1 (R5 `N_MOTORS`). -/
inductive Motor where
  | m0
  | m1
  deriving DecidableEq, Repr, Inhabited

/-- The other channel, the rules' `1 - m`. -/
def Motor.other : Motor → Motor
  | .m0 => .m1
  | .m1 => .m0

end Sys2Proof
end

