-- ==== Sys2Proof/Syntax.lean ====
section
/-! DEFINITION. The nine commands of `sps-cmd32` (spec/30_encoding.md R65). Operand types are exactly as wide as
the fields that carry them (R62, R64), so every value of `Instr` is a command some word encodes. -/

namespace Sys2Proof

/-- One constructor per row of spec/opcode_table.json. -/
inductive Instr where
  /-- NOP, 43_control.md R119. -/
  | nop
  /-- STEPF m, 40_sequencer.md R82. -/
  | stepf (m : Motor)
  /-- STEPB m, 40_sequencer.md R84. -/
  | stepb (m : Motor)
  /-- STOP m, 40_sequencer.md R86. -/
  | stop (m : Motor)
  /-- DECODE m, sample, 41_decoder.md R105. -/
  | decode (m : Motor) (sample : BitVec 16)
  /-- TICK, 42_dispatch.md R110. -/
  | tick
  /-- WRCFG reg, value, 43_control.md R121. -/
  | wrcfg (reg : BitVec 8) (value : BitVec 16)
  /-- RDREG reg, 43_control.md R123. -/
  | rdreg (reg : BitVec 8)
  /-- START, 43_control.md R125. -/
  | start
  deriving DecidableEq, Repr

end Sys2Proof
end

