-- ==== Sys2Proof/Decode.lean ====
section
/-! DEFINITION. Words to commands and back (spec/30_encoding.md R61 to R74). The decoder is the mask and match table
of R65 read by R66; the encoder packs the fields of R62 with the operation codes of R65. -/

namespace Sys2Proof

/-! ### Fields of a word (R62, R64) -/

/-- `OP = w[31:28]`. -/
def opOf (w : Word) : BitVec 4 := w.extractLsb' 28 4
/-- `RSV = w[27:25]`. -/
def rsvOf (w : Word) : BitVec 3 := w.extractLsb' 25 3
/-- `M = w[24]`. -/
def mOf (w : Word) : BitVec 1 := w.extractLsb' 24 1
/-- `REG = w[23:16]`. -/
def regOf (w : Word) : BitVec 8 := w.extractLsb' 16 8
/-- `IMM = w[15:0]`. -/
def immOf (w : Word) : BitVec 16 := w.extractLsb' 0 16

/-- The channel a motor bit names (R64). -/
def motorOfBit (b : BitVec 1) : Motor := if b = 0#1 then .m0 else .m1

/-- The motor bit of a channel (R64). -/
def bitOfMotor : Motor → BitVec 1
  | .m0 => 0#1
  | .m1 => 1#1

/-! ### The opcode map (R65) -/

/-- The nine mnemonics. -/
inductive Mnemonic where
  | NOP | STEPF | STEPB | STOP | DECODE | TICK | WRCFG | RDREG | START
  deriving DecidableEq, Repr

/-- A row of R65's second table. -/
structure OpRow where
  name : Mnemonic
  mask : Word
  pattern : Word
  deriving DecidableEq, Repr

/-- R65: "Exact match and mask per command". -/
def opTable : List OpRow :=
  [⟨.NOP, 0xFFFFFFFF#32, 0x00000000#32⟩,
   ⟨.STEPF, 0xFEFFFFFF#32, 0x10000000#32⟩,
   ⟨.STEPB, 0xFEFFFFFF#32, 0x20000000#32⟩,
   ⟨.STOP, 0xFEFFFFFF#32, 0x30000000#32⟩,
   ⟨.DECODE, 0xFEFF0000#32, 0x40000000#32⟩,
   ⟨.TICK, 0xFFFFFFFF#32, 0x50000000#32⟩,
   ⟨.WRCFG, 0xFF000000#32, 0x60000000#32⟩,
   ⟨.RDREG, 0xFF00FFFF#32, 0x70000000#32⟩,
   ⟨.START, 0xFFFFFFFF#32, 0x80000000#32⟩]

/-- `(w AND mask) = match` (R66). -/
def OpRow.hits (r : OpRow) (w : Word) : Bool := (w &&& r.mask) == r.pattern

/-- The command a mnemonic and a word's operand fields make (R63, R64, R66). -/
def buildInstr (k : Mnemonic) (w : Word) : Instr :=
  match k with
  | .NOP => .nop
  | .STEPF => .stepf (motorOfBit (mOf w))
  | .STEPB => .stepb (motorOfBit (mOf w))
  | .STOP => .stop (motorOfBit (mOf w))
  | .DECODE => .decode (motorOfBit (mOf w)) (immOf w)
  | .TICK => .tick
  | .WRCFG => .wrcfg (regOf w) (immOf w)
  | .RDREG => .rdreg (regOf w)
  | .START => .start

/-- Why a word decodes to `ILLEGAL`. -/
inductive IllegalReason where
  /-- R67: `OP` is 0x9 to 0xF. -/
  | reservedOp
  /-- R68: a bit of a field that the format marks "must be 0" is set. -/
  | mustBeZero
  /-- R61: every command is one 32-bit word; a byte sequence shorter than that holds none. -/
  | fewerThanFourBytes
  deriving DecidableEq, Repr

/-- What the decoder answers: a command, or `ILLEGAL` with its reason. -/
inductive Decoded where
  | instr (i : Instr)
  | illegal (why : IllegalReason)
  deriving DecidableEq, Repr

/-- R66: total on every 32-bit word; reads only the word (R70). -/
def decodeWord (w : Word) : Decoded :=
  match opTable.find? (fun r => r.hits w) with
  | some r => .instr (buildInstr r.name w)
  | none => .illegal (if 9 ≤ (opOf w).toNat then .reservedOp else .mustBeZero)

/-! ### Words as bytes (20_memory.md R53) -/

/-- R53: "the bytes are in little-endian order: the byte holding bits 7:0 first". -/
def wordBytes (w : Word) : List Byte :=
  [w.extractLsb' 0 8, w.extractLsb' 8 8, w.extractLsb' 16 8, w.extractLsb' 24 8]

/-- The word that four bytes carry, the first holding bits 7:0 (R53). -/
def wordOfBytes (b0 b1 b2 b3 : Byte) : Word :=
  b0.setWidth 32 ||| (b1.setWidth 32 <<< 8) ||| (b2.setWidth 32 <<< 16) ||| (b3.setWidth 32 <<< 24)

/-- Decode the first command of a byte sequence and give back the bytes after it. Total on any bytes. -/
def decodeBytes : List Byte → Decoded × List Byte
  | b0 :: b1 :: b2 :: b3 :: rest => (decodeWord (wordOfBytes b0 b1 b2 b3), rest)
  | short => (.illegal .fewerThanFourBytes, short)

/-! ### The encoder (R62, R72) -/

/-- The operation code of each command (R65). -/
def Instr.op : Instr → BitVec 4
  | .nop => 0x0#4
  | .stepf _ => 0x1#4
  | .stepb _ => 0x2#4
  | .stop _ => 0x3#4
  | .decode _ _ => 0x4#4
  | .tick => 0x5#4
  | .wrcfg _ _ => 0x6#4
  | .rdreg _ => 0x7#4
  | .start => 0x8#4

/-- The `M` field: the channel in formats M and MS, else 0 (R63). -/
def Instr.mField : Instr → BitVec 1
  | .stepf m | .stepb m | .stop m | .decode m _ => bitOfMotor m
  | .nop | .tick | .wrcfg _ _ | .rdreg _ | .start => 0#1

/-- The `REG` field: the register number in formats RI and R, else 0 (R63). -/
def Instr.regField : Instr → BitVec 8
  | .wrcfg r _ | .rdreg r => r
  | .nop | .stepf _ | .stepb _ | .stop _ | .decode _ _ | .tick | .start => 0#8

/-- The `IMM` field: the sample or value in formats MS and RI, else 0 (R63). -/
def Instr.immField : Instr → BitVec 16
  | .decode _ v | .wrcfg _ v => v
  | .nop | .stepf _ | .stepb _ | .stop _ | .tick | .rdreg _ | .start => 0#16

/-- Place the four fields in a word whose `RSV` is 0 (R62, R72). -/
def packWord (op : BitVec 4) (m : BitVec 1) (reg : BitVec 8) (imm : BitVec 16) : Word :=
  (op.setWidth 32 <<< 28) ||| (m.setWidth 32 <<< 24) ||| (reg.setWidth 32 <<< 16) ||| imm.setWidth 32

/-- The word of a command (R72). -/
def encode (i : Instr) : Word := packWord i.op i.mField i.regField i.immField

/-! ### The host's view of the decoder -/

/-- The command the decoder reads from the bits `w` of a table row: the word laid out as bytes (R53), decoded. -/
def decodeTableWord (nbits w : Nat) : Option Instr :=
  if nbits ≤ 32 ∧ w < 2 ^ 32 then
    match decodeBytes (wordBytes (BitVec.ofNat 32 w)) with
    | (.instr i, []) => some i
    | _ => none
  else none

end Sys2Proof
end

