-- ==== Sys2Proof/Config.lean ====
section
/-! DEFINITION. What the spec leaves to the implementation or to the environment. Nothing here has a value a proof
could use: an `opaque` constant has no body. -/

namespace Sys2Proof

/-- The answer of `SampleRead(m)` (00_scope.md R11). When the call fails its `val` is meaningless, so a failed
answer carries none. -/
inductive SampleAnswer where
  | ok (val : BitVec 16)
  | failed
  deriving DecidableEq, Repr, Inhabited

/-- The answer of `OutWrite(m, p)` (00_scope.md R11). A failed write brings the `draw u4` that COIL[m] and the
pins then hold (20_memory.md R52, 93_implementation_defined.md U4). -/
inductive WriteAnswer where
  | ok
  | failed (draw : Pattern)
  deriving DecidableEq, Repr, Inhabited

/-- `TICK_Q_RESET`, the OPEN parameter of 92_eei_decisions.md D17: any 16-bit value.
DESIGN CHOICE (safe, log entry 2): an opaque constant, so that no proof knows it. -/
opaque Config.tickQReset : BitVec 16

/-- The sampler's answer to a call no listed answer covers: a free value, fresh for each `n`.
DESIGN CHOICE (safe, log entry 3). -/
opaque Config.freeSample : Motor → Nat → SampleAnswer

/-- The pin outputs' answer to a call no listed answer covers: a free value, fresh for each `n`.
DESIGN CHOICE (safe, log entry 3). -/
opaque Config.freeWrite : Motor → Nat → WriteAnswer

/-- The level of motor `m`'s four pins after power-on or a reset: a free value (70_reset_and_hazards.md R153, U5).
DESIGN CHOICE (safe, log entry 6). -/
opaque Config.freePins : Motor → Nat → Pattern

end Sys2Proof
end

