-- ==== Sys2Proof/Machine/State.lean ====
section
/-! DEFINITION. The state of the block and of what it is connected to, as plain data; why a step can stop; the state
right after reset (spec/10_state.md R13 to R43, 70_reset_and_hazards.md R152). -/

namespace Sys2Proof.Machine

/-- A Command (R38): three kinds, so `KIND = 3` cannot be written down (93_implementation_defined.md V8). -/
inductive Command where
  | stop
  | forward (delay : BitVec 16)
  | backward (delay : BitVec 16)
  deriving DecidableEq, Repr, Inhabited

/-- A fault cause (60_exceptions.md R129): codes 6 to 15 cannot be written down (V9). -/
inductive Cause where
  | none
  | illegalCmd
  | cfgInvalid
  | ioSample
  | ioPin
  | logicRange
  deriving DecidableEq, Repr, Inhabited

/-- STATUS (R29): its fields. Reserved bits have no storage; `Status.word` reads them as 0. -/
structure Status where
  run : Bool
  halted : Bool
  ioErr : Bool
  cause : Cause
  faultM : Motor
  deriving DecidableEq, Repr

/-- The registers of one motor channel: its calibration bank (R19 to R22, R39), MODE (R26), IDX (R32), COIL (R33),
ELAPSED (R34) and CMD (R35). -/
structure Channel where
  calCenter : BitVec 16
  calThresh : BitVec 16
  calMin : BitVec 16
  calMax : BitVec 16
  mode : BitVec 1
  idx : BitVec 3
  coil : Pattern
  elapsed : BitVec 32
  cmd : Command
  deriving DecidableEq, Repr

/-- What one motor's channel is connected to (00_scope.md R11, 10_state.md R41). `samples` and `writes` are the
answers the environment will give, oldest first; a call past their end gets a free value of `Config`, numbered by
`freeSamples` or `freeWrites` (log entry 3). `pins` is the level of the four coil pins, hidden from every command;
`freePins` numbers the free values it has been given (log entry 6). -/
structure MotorEnv where
  samples : List SampleAnswer
  writes : List WriteAnswer
  freeSamples : Nat
  freeWrites : Nat
  freePins : Nat
  pins : Pattern
  deriving DecidableEq, Repr

/-- An environment call the block made (R43), with its answer. -/
inductive EnvCall where
  | sampleRead (m : Motor) (answer : SampleAnswer)
  | outWrite (m : Motor) (p : Pattern) (ok : Bool)
  deriving DecidableEq, Repr

/-- What the host does at the block's ports (R15), one item a step. -/
inductive HostInput where
  /-- A command word on `cmd`, performed to its end. -/
  | command (w : Word)
  /-- The level of `rst` from now on (R151). -/
  | rst (asserted : Bool)
  /-- A command word on `cmd`, with `rst` asserted when the command has made `k` environment calls (R151: "A command
  in progress when `rst` is asserted is abandoned"). -/
  | commandCut (w : Word) (k : Nat)
  deriving DecidableEq, Repr

/-- Everything the spec gives the machine, and the model's record of its surroundings. -/
structure State where
  chan0 : Channel
  chan1 : Channel
  minDelay : BitVec 16
  maxDelay : BitVec 16
  tickQ : BitVec 16
  ctrl : BitVec 1
  status : Status
  ioerrCnt : BitVec 16
  faultCmd : Word
  result : Word
  /-- The level of the `rst` port. -/
  rst : Bool
  /-- What the host goes on to do, first item first (R14, R15). -/
  host : List HostInput
  env0 : MotorEnv
  env1 : MotorEnv
  /-- The environment calls made so far, oldest first (R43, R150). -/
  calls : List EnvCall
  deriving DecidableEq, Repr

/-- Why the model stops. The block's own faults are NEXT states (60_exceptions.md R132), not these. -/
inductive Fault where
  /-- Raised by a step of motor `m` (STEPF, STEPB, TICK) whose pattern would be read from ROM address 4 to 7, which
  "hold no defined value" (20_memory.md R50, V6). Safe: the spec asks for it, and no run reaches it. -/
  | unpopulatedRom (m : Motor)
  deriving DecidableEq, Repr

/-- Why the model gives no meaning. -/
inductive Refusal where
  /-- An instruction without a meaning yet; raised by no arm, since all nine have theirs. Safe: it only stops. -/
  | notModelled (mnemonic : String)
  deriving DecidableEq, Repr

/-- A motor channel right after reset (70_reset_and_hazards.md R152). -/
def Channel.reset : Channel :=
  { calCenter := 1620#16, calThresh := 50#16, calMin := 0#16, calMax := 2081#16, mode := 1#1, idx := 0#3, coil := 0x0#4,
    elapsed := 0#32, cmd := .stop }

/-- A motor's surroundings at power-on: no answer listed, and pins at a level nobody knows (R153).
DESIGN CHOICE (safe, log entries 4 and 6). -/
def MotorEnv.powerOn (m : Motor) : MotorEnv :=
  { samples := [], writes := [], freeSamples := 0, freeWrites := 0, freePins := 1, pins := Config.freePins m 0 }

/-- The machine right after reset (R152), `rst` released, the host having offered nothing. TICK_Q holds the OPEN
`TICK_Q_RESET` (log entry 2). -/
def State.reset : State :=
  { chan0 := Channel.reset
    chan1 := Channel.reset
    minDelay := 1#16
    maxDelay := 20#16
    tickQ := Config.tickQReset
    ctrl := 0#1
    status := { run := false, halted := false, ioErr := false, cause := .none, faultM := .m0 }
    ioerrCnt := 0#16
    faultCmd := 0#32
    result := 0#32
    rst := false
    host := []
    env0 := MotorEnv.powerOn .m0
    env1 := MotorEnv.powerOn .m1
    calls := [] }

end Sys2Proof.Machine
end

