-- ==== Sys2Proof/Machine/Flags.lean ====
section
/-! DEFINITION. STATUS and the codes in it (spec/10_state.md R29, R38, 60_exceptions.md R129), the error policy
(R28), and the saturating counts (00_scope.md R8). -/

namespace Sys2Proof.Machine

/-- The cause codes of R129. -/
def Cause.code : Cause → BitVec 4
  | .none => 0#4
  | .illegalCmd => 1#4
  | .cfgInvalid => 2#4
  | .ioSample => 3#4
  | .ioPin => 4#4
  | .logicRange => 5#4

/-- A 1-bit flag as a word's bit 0. -/
def flagWord (b : Bool) : Word := if b then 1#32 else 0#32

/-- FAULT_M as a bit: the channel number (R29). -/
def faultMWord : Motor → Word
  | .m0 => 0#32
  | .m1 => 1#32

/-- STATUS as it is read and as it stands on the `status` port (R29): RUN in bit 0, HALTED in 1, IO_ERR in 2, CAUSE
in 7:4, FAULT_M in 8, every other bit 0. -/
def Status.word (f : Status) : Word :=
  flagWord f.run ||| (flagWord f.halted <<< 1) ||| (flagWord f.ioErr <<< 2) ||| (f.cause.code.setWidth 32 <<< 4)
    ||| (faultMWord f.faultM <<< 8)

/-- The 18-bit format of R38, zero-extended: KIND in bits 17:16, DELAY in bits 15:0. -/
def Command.word : Command → Word
  | .stop => 0#32
  | .forward d => (1#32 <<< 16) ||| d.setWidth 32
  | .backward d => (2#32 <<< 16) ||| d.setWidth 32

/-- How a transient hardware error is handled (R28). -/
inductive Policy where
  | halt
  | skip
  deriving DecidableEq, Repr

/-- `ERR_POLICY`, bit 0 of CTRL (R27, R28). -/
def State.errPolicy (s : State) : Policy := if s.ctrl = 0#1 then .halt else .skip

/-- `sat_16(a + 1)` (R31). -/
def satSucc16 (a : BitVec 16) : BitVec 16 := BitVec.ofNat 16 (min (a.toNat + 1) 0xFFFF)

/-- `sat_32(a + q)` (42_dispatch.md R112). -/
def satAdd32 (a : BitVec 32) (q : BitVec 16) : BitVec 32 := BitVec.ofNat 32 (min (a.toNat + q.toNat) 0xFFFFFFFF)

/-- The `status` port: "The same value is on the `status` port at all times" (R29). -/
def State.statusPort (s : State) : Word := s.status.word

/-- The `result` port (R37). -/
def State.resultPort (s : State) : Word := s.result

end Sys2Proof.Machine
end

