-- ==== Sys2Proof/Machine/Operands.lean ====
section
/-! DEFINITION. A motor's part of the state, and the register map with its reads and writes (spec/10_state.md R16
to R18, R39). -/

namespace Sys2Proof.Machine

/-! ### The parts of the state, and a motor's channel and surroundings -/

/-- The registers of motor `m`. -/
def State.chan (s : State) : Motor → Channel
  | .m0 => s.chan0
  | .m1 => s.chan1

/-- Replace the registers of motor `m`. -/
def State.setChan (s : State) (m : Motor) (c : Channel) : State :=
  match m with
  | .m0 => { s with chan0 := c }
  | .m1 => { s with chan1 := c }

/-- What motor `m` is connected to. -/
def State.env (s : State) : Motor → MotorEnv
  | .m0 => s.env0
  | .m1 => s.env1

/-- Replace what motor `m` is connected to. -/
def State.setEnv (s : State) (m : Motor) (e : MotorEnv) : State :=
  match m with
  | .m0 => { s with env0 := e }
  | .m1 => { s with env1 := e }

/-- `STATUS <- f`. -/
@[simps] def State.setStatus (s : State) (f : Status) : State := { s with status := f }
/-- `IOERR_CNT <- v`. -/
@[simps] def State.setIoerrCnt (s : State) (v : BitVec 16) : State := { s with ioerrCnt := v }
/-- `FAULT_CMD <- w`. -/
@[simps] def State.setFaultCmd (s : State) (w : Word) : State := { s with faultCmd := w }
/-- `RESULT <- w`. -/
@[simps] def State.setResult (s : State) (w : Word) : State := { s with result := w }
/-- What the host goes on to do, from now on (R14). -/
@[simps] def State.setHost (s : State) (h : List HostInput) : State := { s with host := h }
/-- Put an environment call on record (R43). -/
@[simps] def State.logCall (s : State) (c : EnvCall) : State := { s with calls := s.calls ++ [c] }

/-- `IDX[m] <- v`. -/
def State.setIdx (s : State) (m : Motor) (v : BitVec 3) : State := s.setChan m { s.chan m with idx := v }
/-- `COIL[m] <- v`. -/
def State.setCoil (s : State) (m : Motor) (v : Pattern) : State := s.setChan m { s.chan m with coil := v }
/-- `ELAPSED[m] <- v`. -/
def State.setElapsed (s : State) (m : Motor) (v : BitVec 32) : State := s.setChan m { s.chan m with elapsed := v }
/-- `CMD[m] <- v`. -/
def State.setCmd (s : State) (m : Motor) (v : Command) : State := s.setChan m { s.chan m with cmd := v }

/-! ### The register map (R17) -/

/-- The RW registers, numbers 0x00 to 0x0D. -/
inductive CfgReg where
  | calCenter (m : Motor)
  | calThresh (m : Motor)
  | calMin (m : Motor)
  | calMax (m : Motor)
  | minDelay
  | maxDelay
  | tickQ
  | mode (m : Motor)
  | ctrl
  deriving DecidableEq, Repr

/-- The RO registers, numbers 0x10 to 0x1A. -/
inductive RoReg where
  | status
  | ioerrCnt
  | idx (m : Motor)
  | coil (m : Motor)
  | elapsed (m : Motor)
  | cmd (m : Motor)
  | faultCmd
  deriving DecidableEq, Repr

/-- A register of the map. -/
inductive Reg where
  | rw (r : CfgReg)
  | ro (r : RoReg)
  deriving DecidableEq, Repr

/-- The rows of R17, in order. -/
def regMap : List (Nat × Reg) :=
  [(0x00, .rw (.calCenter .m0)), (0x01, .rw (.calThresh .m0)), (0x02, .rw (.calMin .m0)), (0x03, .rw (.calMax .m0)),
   (0x04, .rw (.calCenter .m1)), (0x05, .rw (.calThresh .m1)), (0x06, .rw (.calMin .m1)), (0x07, .rw (.calMax .m1)),
   (0x08, .rw .minDelay), (0x09, .rw .maxDelay), (0x0A, .rw .tickQ),
   (0x0B, .rw (.mode .m0)), (0x0C, .rw (.mode .m1)), (0x0D, .rw .ctrl),
   (0x10, .ro .status), (0x11, .ro .ioerrCnt), (0x12, .ro (.idx .m0)), (0x13, .ro (.idx .m1)),
   (0x14, .ro (.coil .m0)), (0x15, .ro (.coil .m1)), (0x16, .ro (.elapsed .m0)), (0x17, .ro (.elapsed .m1)),
   (0x18, .ro (.cmd .m0)), (0x19, .ro (.cmd .m1)), (0x1A, .ro .faultCmd)]

/-- The register a number names; none for a reserved number (R18: "A model must not give them a value"). -/
def regAt (n : BitVec 8) : Option Reg := regMap.lookup n.toNat

/-- The RW register a number names; none for a read-only or reserved number (43_control.md R121). -/
def cfgRegAt (n : BitVec 8) : Option CfgReg :=
  match regAt n with
  | some (.rw r) => some r
  | some (.ro _) | none => none

/-- The registers of one bit: MODE0, MODE1 and CTRL (R16). -/
def CfgReg.oneBit : CfgReg → Bool
  | .mode _ | .ctrl => true
  | .calCenter _ | .calThresh _ | .calMin _ | .calMax _ | .minDelay | .maxDelay | .tickQ => false

/-- An RW register zero-extended to 32 bits (R16, 20_memory.md R56). -/
def State.readCfg (s : State) : CfgReg → Word
  | .calCenter m => (s.chan m).calCenter.setWidth 32
  | .calThresh m => (s.chan m).calThresh.setWidth 32
  | .calMin m => (s.chan m).calMin.setWidth 32
  | .calMax m => (s.chan m).calMax.setWidth 32
  | .minDelay => s.minDelay.setWidth 32
  | .maxDelay => s.maxDelay.setWidth 32
  | .tickQ => s.tickQ.setWidth 32
  | .mode m => (s.chan m).mode.setWidth 32
  | .ctrl => s.ctrl.setWidth 32

/-- An RO register zero-extended to 32 bits (R16). -/
def State.readRo (s : State) : RoReg → Word
  | .status => s.status.word
  | .ioerrCnt => s.ioerrCnt.setWidth 32
  | .idx m => (s.chan m).idx.setWidth 32
  | .coil m => (s.chan m).coil.setWidth 32
  | .elapsed m => (s.chan m).elapsed
  | .cmd m => (s.chan m).cmd.word
  | .faultCmd => s.faultCmd

/-- `zext_32(REG)` (R16). -/
def State.readReg (s : State) : Reg → Word
  | .rw r => s.readCfg r
  | .ro r => s.readRo r

/-- `REG(n)` by number, none for a reserved number (00_scope.md R9, R18). -/
def State.regRead (s : State) (n : BitVec 8) : Option Word := (regAt n).map s.readReg

/-- Write an RW register from the 16-bit immediate: all of it, or its bit 0 for a 1-bit register (R16). -/
def State.writeCfg (s : State) (r : CfgReg) (v : BitVec 16) : State :=
  match r with
  | .calCenter m => s.setChan m { s.chan m with calCenter := v }
  | .calThresh m => s.setChan m { s.chan m with calThresh := v }
  | .calMin m => s.setChan m { s.chan m with calMin := v }
  | .calMax m => s.setChan m { s.chan m with calMax := v }
  | .minDelay => { s with minDelay := v }
  | .maxDelay => { s with maxDelay := v }
  | .tickQ => { s with tickQ := v }
  | .mode m => s.setChan m { s.chan m with mode := v.setWidth 1 }
  | .ctrl => { s with ctrl := v.setWidth 1 }

end Sys2Proof.Machine
end

