-- ==== Sys2Proof/Machine/Ops.lean ====
section
/-! DEFINITION. The operations the commands share: how a command's pseudocode goes on or ends, recording a fault
(spec/60_exceptions.md R132), the I/O error handler (R136), the two environment calls (00_scope.md R11), the pattern
ROM (20_memory.md R46 to R50), the sequencer's primitives (40_sequencer.md R77 to R80), and reset
(70_reset_and_hazards.md R151). -/

namespace Sys2Proof.Machine

/-! ### Going on and ending -/

/-- Where a piece of a command's pseudocode leaves the command: going on with a value, or ended by
`raise Fault(...)` (00_scope.md R9). Either way the state is what the piece did so far: nothing is rolled back
(R134). -/
inductive Flow (α : Type) where
  | cont (a : α) (s : State)
  | ended (s : State)

/-- Do `k` next, unless the command has ended. -/
def Flow.andThen {α β : Type} (x : Flow α) (k : α → State → Flow β) : Flow β :=
  match x with
  | .cont a s => k a s
  | .ended s => .ended s

/-- The state a command leaves when `x` is the last of it. -/
def Flow.final {α : Type} : Flow α → State
  | .cont _ s => s
  | .ended s => s

/-- `andThen` for pieces that may hit a stop of the model (an unpopulated ROM address). -/
def thenTry {α β : Type} (x : Except Fault (Flow α)) (k : α → State → Except Fault (Flow β)) :
    Except Fault (Flow β) :=
  match x with
  | .error f => .error f
  | .ok (.ended s) => .ok (.ended s)
  | .ok (.cont a s) => k a s

/-- The outcome of a whole command. A command ended by the block's own fault is a next state. -/
def settle {α : Type} : Except Fault (Flow α) → Host.Outcome State Fault Refusal
  | .error f => .fault f
  | .ok x => .next x.final

/-! ### Recording a fault (R132) -/

/-- `raise Fault(cause, m)` during command word `w`: the first fault is recorded, a later one is not. RUN and RESULT
keep their values. The command ends where this is called. -/
def raise (w : Word) (cause : Cause) (m : Motor) (s : State) : State :=
  if s.status.halted then s
  else (s.setStatus { s.status with halted := true, cause := cause, faultM := m }).setFaultCmd w

/-- `io_error(cause, m)` (R136): under HALT the command ends with the fault; under SKIP the error is counted and the
caller goes on. -/
def ioError (w : Word) (cause : Cause) (m : Motor) (s : State) : Flow Unit :=
  match s.errPolicy with
  | .halt => .ended (raise w cause m s)
  | .skip => .cont () ((s.setStatus { s.status with ioErr := true }).setIoerrCnt (satSucc16 s.ioerrCnt))

/-! ### Environment calls (00_scope.md R11) -/

/-- The answer motor `m`'s sampler gives next: the listed one, else a free value (log entry 3). -/
def MotorEnv.nextSample (m : Motor) (e : MotorEnv) : SampleAnswer :=
  match e.samples with
  | a :: _ => a
  | [] => Config.freeSample m e.freeSamples

/-- The surroundings once that answer is given. -/
def MotorEnv.afterSample (e : MotorEnv) : MotorEnv :=
  match e.samples with
  | _ :: rest => { e with samples := rest }
  | [] => { e with freeSamples := e.freeSamples + 1 }

/-- The answer motor `m`'s pin outputs give next: the listed one, else a free value (log entry 3). -/
def MotorEnv.nextWrite (m : Motor) (e : MotorEnv) : WriteAnswer :=
  match e.writes with
  | a :: _ => a
  | [] => Config.freeWrite m e.freeWrites

/-- The surroundings once that answer is given, the pins aside. -/
def MotorEnv.afterWrite (e : MotorEnv) : MotorEnv :=
  match e.writes with
  | _ :: rest => { e with writes := rest }
  | [] => { e with freeWrites := e.freeWrites + 1 }

/-- Whether a pattern write succeeded. -/
def ackOf : WriteAnswer → Bool
  | .ok => true
  | .failed _ => false

/-- What the four pins, and COIL, hold after a write of `p` (20_memory.md R52): `p`, or the draw of a failed write. -/
def levelOf (p : Pattern) : WriteAnswer → Pattern
  | .ok => p
  | .failed d => d

/-- `SampleRead(m)` asked now. -/
def State.sampleAnswer (s : State) (m : Motor) : SampleAnswer := (s.env m).nextSample m

/-- `OutWrite(m, _)` asked now. -/
def State.writeAnswer (s : State) (m : Motor) : WriteAnswer := (s.env m).nextWrite m

/-- The state after `SampleRead(m)`. -/
def sampleRead (m : Motor) (s : State) : State :=
  (s.setEnv m (s.env m).afterSample).logCall (.sampleRead m (s.sampleAnswer m))

/-- The state after `OutWrite(m, p)`: the pins take the level of its answer. -/
def outWrite (m : Motor) (p : Pattern) (s : State) : State :=
  (s.setEnv m { (s.env m).afterWrite with pins := levelOf p (s.writeAnswer m) }).logCall
    (.outWrite m p (ackOf (s.writeAnswer m)))

/-! ### The pattern ROM (20_memory.md R46 to R50) -/

/-- The populated entries: the 4-entry table at 0 to 3 (R47), the 8-entry table at 8 to 15 (R48). -/
def rom : List (Nat × Pattern) :=
  [(0x0, 0xA#4), (0x1, 0x6#4), (0x2, 0x5#4), (0x3, 0x9#4),
   (0x8, 0x1#4), (0x9, 0x3#4), (0xA, 0x2#4), (0xB, 0x6#4), (0xC, 0x4#4), (0xD, 0xC#4), (0xE, 0x8#4), (0xF, 0x9#4)]

/-- `MemRead(ROM, {tblSel, i}, 4)` with the address `8 * tblSel + i` (R46); none at addresses 4 to 7 (R50). -/
def romRead (tblSel : BitVec 1) (i : BitVec 3) : Option Pattern := rom.lookup (8 * tblSel.toNat + i.toNat)

/-- `Pattern(m, IDX[m])` (R49). -/
def State.pattern (s : State) (m : Motor) : Option Pattern := romRead (s.chan m).mode (s.chan m).idx

/-- `LEN` of a table (10_state.md R26). -/
def lenOf (tblSel : BitVec 1) : Nat := if tblSel = 0#1 then 4 else 8

/-- `LEN(m)` (R26). -/
def State.len (s : State) (m : Motor) : Nat := lenOf (s.chan m).mode

/-! ### The sequencer (40_sequencer.md R77 to R80) -/

/-- The direction of a step. -/
inductive Dir where
  | fwd
  | back
  deriving DecidableEq, Repr

/-- `next(m, i)` and `prev(m, i)` in a table of `len` entries (R78). -/
def moveIdx (dir : Dir) (len : Nat) (i : BitVec 3) : BitVec 3 :=
  match dir with
  | .fwd => BitVec.ofNat 3 ((i.toNat + 1) % len)
  | .back => BitVec.ofNat 3 ((i.toNat + len - 1) % len)

/-- `SeqWrite(m, p)` (R77): the state after it. Whether it succeeded is `s.writeAnswer m`, asked before it. -/
def seqWrite (m : Motor) (p : Pattern) (s : State) : State :=
  (outWrite m p s).setCoil m (levelOf p (s.writeAnswer m))

/-- `SeqStop(m)` (R79). -/
def seqStop (w : Word) (m : Motor) (s : State) : Flow Unit :=
  match s.writeAnswer m with
  | .ok => .cont () (seqWrite m 0x0#4 s)
  | .failed _ => ioError w .ioPin m (seqWrite m 0x0#4 s)

/-- `SeqStep(m, dir)` once the pattern is read (R80): the pattern at the index held before is written, and only
after a successful write does the index move. Goes on with whether the step was taken. -/
def seqStepWith (w : Word) (m : Motor) (dir : Dir) (p : Pattern) (s : State) : Flow Bool :=
  match s.writeAnswer m with
  | .ok => .cont true ((seqWrite m p s).setIdx m (moveIdx dir (s.len m) (s.chan m).idx))
  | .failed _ => (ioError w .ioPin m (seqWrite m p s)).andThen (fun _ t => .cont false t)

/-- `SeqStep(m, dir)` (R80). A read of an unpopulated ROM address stops the model (R50). -/
def seqStep (w : Word) (m : Motor) (dir : Dir) (s : State) : Except Fault (Flow Bool) :=
  match s.pattern m with
  | some p => .ok (seqStepWith w m dir p s)
  | none => .error (.unpopulatedRom m)

/-! ### The phase check (60_exceptions.md R130, R133) -/

/-- A command of the run phase: no effect while HALTED, ILLEGAL_CMD while RUN = 0, else its body. -/
def inRunPhase (w : Word) (s : State) (body : Except Fault (Flow Unit)) : Host.Outcome State Fault Refusal :=
  if s.status.halted then .next s
  else if s.status.run then settle body
  else .next (raise w .illegalCmd .m0 s)

/-- A command of the configuration phase: no effect while HALTED, ILLEGAL_CMD while RUN = 1, else its body. -/
def inConfigPhase (w : Word) (s : State) (body : State) : State :=
  if s.status.halted then s
  else if s.status.run then raise w .illegalCmd .m0 s
  else body

/-! ### Reset (70_reset_and_hazards.md R151 to R153) -/

/-- Pins nobody drives any more: a fresh free value (R153, U5; log entry 6). -/
def MotorEnv.undriven (m : Motor) (e : MotorEnv) : MotorEnv :=
  { e with pins := Config.freePins m e.freePins, freePins := e.freePins + 1 }

/-- Every register of the block at its reset value (R152); the host, the surroundings and the record of calls stay. -/
def resetRegisters (s : State) : State :=
  { State.reset with rst := s.rst, host := s.host, env0 := s.env0, env1 := s.env1, calls := s.calls }

/-- `rst` is asserted (R151). -/
def assertReset (s : State) : State :=
  { resetRegisters s with rst := true, env0 := s.env0.undriven .m0, env1 := s.env1.undriven .m1 }

/-- `rst` is released (R151): "when it is released, every register of the block holds its reset value". A release
of a port that is not asserted is no event. -/
def releaseReset (s : State) : State :=
  if s.rst then { resetRegisters s with rst := false } else s

end Sys2Proof.Machine
end

