-- ==== Sys2Proof/Machine/Control.lean ====
section
/-! DEFINITION. NOP, WRCFG, RDREG and START (spec/43_control.md). -/

namespace Sys2Proof.Machine

/-- NOP (R119): nothing, in every state. -/
def execNop (s : State) : Host.Outcome State Fault Refusal := .next s

/-- The register and immediate checks of WRCFG, then the write (R121). -/
def writeChecked (w : Word) (reg : BitVec 8) (value : BitVec 16) (s : State) : State :=
  match cfgRegAt reg with
  | none => raise w .illegalCmd .m0 s
  | some r =>
    if r.oneBit ∧ value.extractLsb' 1 15 ≠ 0#15 then raise w .illegalCmd .m0 s
    else s.writeCfg r value

/-- WRCFG reg, value (R121). -/
def execWrcfg (reg : BitVec 8) (value : BitVec 16) (s : State) : Host.Outcome State Fault Refusal :=
  .next (inConfigPhase (encode (.wrcfg reg value)) s (writeChecked (encode (.wrcfg reg value)) reg value s))

/-- RDREG reg (R123). `raise` leaves a halted block unchanged, as R123 asks for a reserved number. -/
def execRdreg (reg : BitVec 8) (s : State) : Host.Outcome State Fault Refusal :=
  match s.regRead reg with
  | some v => .next (s.setResult v)
  | none => .next (raise (encode (.rdreg reg)) .illegalCmd .m0 s)

/-- One motor's part of `ConfigValid()` (R126). -/
abbrev State.CalibValid (s : State) (m : Motor) : Prop :=
  (s.chan m).calMin.toNat < (s.chan m).calCenter.toNat ∧ (s.chan m).calCenter.toNat < (s.chan m).calMax.toNat

/-- `ConfigValid()` (R126). -/
abbrev State.ConfigValid (s : State) : Prop :=
  s.CalibValid .m0 ∧ s.CalibValid .m1 ∧ s.minDelay.toNat ≤ s.maxDelay.toNat ∧ 1 ≤ s.tickQ.toNat

/-- `RUN <- 1`, then `SeqStop` on motor 0 and on motor 1 (R125, R127). -/
def bringUp (w : Word) (s : State) : State :=
  ((seqStop w .m0 (s.setStatus { s.status with run := true })).andThen (fun _ t => seqStop w .m1 t)).final

/-- START (R125). -/
def execStart (s : State) : Host.Outcome State Fault Refusal :=
  .next (inConfigPhase (encode .start) s
    (if s.ConfigValid then bringUp (encode .start) s else raise (encode .start) .cfgInvalid .m0 s))

end Sys2Proof.Machine
end

