-- ==== Sys2Proof/Machine/Joystick.lean ====
section
/-! DEFINITION. The Joystick Command Decoder and DECODE (spec/41_decoder.md). All arithmetic is over the integers
(00_scope.md R8). -/

namespace Sys2Proof.Machine

/-- The inputs of `Decode` beside the sample (R93): one motor's calibration bank and the shared delay bounds, each
zero-extended into Z (R8). -/
structure Calib where
  c : Int
  t : Int
  lo : Int
  hi : Int
  dmin : Int
  dmax : Int
  deriving DecidableEq, Repr

/-- A register's value in Z. -/
def zOf (x : BitVec 16) : Int := x.toNat

/-- `Decode`'s inputs for motor `m` (R93). -/
def State.calib (s : State) (m : Motor) : Calib :=
  { c := zOf (s.chan m).calCenter, t := zOf (s.chan m).calThresh, lo := zOf (s.chan m).calMin,
    hi := zOf (s.chan m).calMax, dmin := zOf s.minDelay, dmax := zOf s.maxDelay }

/-- `clamp(x, lo, hi) = min(max(x, lo), hi)` (R94, R8). -/
def Calib.clamp (k : Calib) (x : Int) : Int := min (max x k.lo) k.hi

/-- The Forward map and its floor (R96, R98). -/
def Calib.forwardDelay (k : Calib) (v : Int) : Int :=
  max (k.dmin + ((v - k.lo) * (k.dmax - k.dmin)).tdiv (k.c - k.lo)) k.dmin

/-- The Backward map and its floor (R97, R98). -/
def Calib.backwardDelay (k : Calib) (v : Int) : Int :=
  max (k.dmin + ((k.hi - v) * (k.dmax - k.dmin)).tdiv (k.hi - k.c)) k.dmin

/-- The Command of a clamped sample (R95 to R98). -/
def Calib.command (k : Calib) (v : Int) : Command :=
  if k.c - k.t ≤ v ∧ v ≤ k.c + k.t then .stop
  else if v ≤ k.c then .forward (BitVec.ofInt 16 (k.forwardDelay v))
  else .backward (BitVec.ofInt 16 (k.backwardDelay v))

/-- `Decode(m, s)` (R100); none is `raise Fault(LOGIC_RANGE, m)` (R99). -/
def Calib.decode (k : Calib) (x : BitVec 16) : Option Command :=
  if k.clamp (zOf x) < k.lo ∨ k.hi < k.clamp (zOf x) then none
  else some (k.command (k.clamp (zOf x)))

/-- The body of DECODE: the Command goes to RESULT (R105). -/
def decodeToResult (w : Word) (m : Motor) (x : BitVec 16) (s : State) : Flow Unit :=
  match (s.calib m).decode x with
  | some cmd => .cont () (s.setResult cmd.word)
  | none => .ended (raise w .logicRange m s)

/-- DECODE m, sample (R105). -/
def execDecode (m : Motor) (sample : BitVec 16) (s : State) : Host.Outcome State Fault Refusal :=
  inRunPhase (encode (.decode m sample)) s (.ok (decodeToResult (encode (.decode m sample)) m sample s))

end Sys2Proof.Machine
end

