-- ==== Sys2Proof/Machine/MotionTimer.lean ====
section
/-! DEFINITION. The Motion Timer Dispatch and TICK (spec/42_dispatch.md R107 to R113). -/

namespace Sys2Proof.Machine

/-- §4.3 step 4 (R108, R111): a step when `ELAPSED[m] >= d`, and the counter back to 0 when the step was taken. -/
def gatedStep (w : Word) (m : Motor) (dir : Dir) (d : BitVec 16) (s : State) : Except Fault (Flow Unit) :=
  if d.toNat ≤ (s.chan m).elapsed.toNat then
    thenTry (seqStep w m dir s) (fun taken t => .ok (.cont () (if taken then t.setElapsed m 0#32 else t)))
  else .ok (.cont () s)

/-- §4.3 steps 3 and 4: what the decoded Command does to motor `m` (R110, R113). -/
def actOn (w : Word) (m : Motor) (cmd : Command) (s : State) : Except Fault (Flow Unit) :=
  match cmd with
  | .stop => .ok (seqStop w m s)
  | .forward d => gatedStep w m .fwd d s
  | .backward d => gatedStep w m .back d s

/-- §4.3 step 2: decode sample `x`, keep the Command in CMD[m], act on it. -/
def decodeAndAct (w : Word) (m : Motor) (x : BitVec 16) (s : State) : Except Fault (Flow Unit) :=
  match (s.calib m).decode x with
  | some cmd => actOn w m cmd (s.setCmd m cmd)
  | none => .ok (.ended (raise w .logicRange m s))

/-- §4.3 steps 1 to 4 for motor `m` (R110). -/
def tickMotor (w : Word) (m : Motor) (s : State) : Except Fault (Flow Unit) :=
  match s.sampleAnswer m with
  | .ok x => decodeAndAct w m x (sampleRead m s)
  | .failed => .ok (ioError w .ioSample m (sampleRead m s))

/-- `ELAPSED[m] <- sat_32(ELAPSED[m] + TICK_Q)` (R112). -/
def advance (m : Motor) (s : State) : State := s.setElapsed m (satAdd32 (s.chan m).elapsed s.tickQ)

/-- One iteration of the loop: motor 0, then motor 1, then both increments (R110). -/
def tickBody (w : Word) (s : State) : Except Fault (Flow Unit) :=
  thenTry (tickMotor w .m0 s) (fun _ s1 =>
    thenTry (tickMotor w .m1 s1) (fun _ s2 =>
      .ok (.cont () (advance .m1 (advance .m0 s2)))))

/-- TICK (R110). -/
def execTick (s : State) : Host.Outcome State Fault Refusal :=
  inRunPhase (encode .tick) s (tickBody (encode .tick) s)

end Sys2Proof.Machine
end

