-- ==== Sys2Proof/Machine/Sequencer.lean ====
section
/-! DEFINITION. STEPF, STEPB and STOP (spec/40_sequencer.md). -/

namespace Sys2Proof.Machine

/-- STEPF m (R82). -/
def execStepf (m : Motor) (s : State) : Host.Outcome State Fault Refusal :=
  inRunPhase (encode (.stepf m)) s
    (thenTry (seqStep (encode (.stepf m)) m .fwd s) (fun _ t => .ok (.cont () t)))

/-- STEPB m (R84). -/
def execStepb (m : Motor) (s : State) : Host.Outcome State Fault Refusal :=
  inRunPhase (encode (.stepb m)) s
    (thenTry (seqStep (encode (.stepb m)) m .back s) (fun _ t => .ok (.cont () t)))

/-- STOP m (R86). -/
def execStop (m : Motor) (s : State) : Host.Outcome State Fault Refusal :=
  inRunPhase (encode (.stop m)) s (.ok (seqStop (encode (.stop m)) m s))

end Sys2Proof.Machine
end

