-- ==== Sys2Proof/Machine/Dispatch.lean ====
section
/-! DEFINITION. Which meaning each command has: one arm per constructor (spec/30_encoding.md R65). -/

namespace Sys2Proof.Machine

def exec (i : Instr) (s : State) : Host.Outcome State Fault Refusal :=
  match i with
  | .nop => Sys2Proof.Machine.execNop s
  | .stepf m => Sys2Proof.Machine.execStepf m s
  | .stepb m => Sys2Proof.Machine.execStepb m s
  | .stop m => Sys2Proof.Machine.execStop m s
  | .decode m sample => Sys2Proof.Machine.execDecode m sample s
  | .tick => Sys2Proof.Machine.execTick s
  | .wrcfg reg value => Sys2Proof.Machine.execWrcfg reg value s
  | .rdreg reg => Sys2Proof.Machine.execRdreg reg s
  | .start => Sys2Proof.Machine.execStart s

end Sys2Proof.Machine
end

