-- ==== Sys2Proof/Machine/Front.lean ====
section
/-! DEFINITION. The block's ports: performing a command word (spec/60_exceptions.md R131), a command cut short by
`rst` (70_reset_and_hazards.md R151), and taking the host's next item (10_state.md R14, R15). -/

namespace Sys2Proof.Machine

/-- `Execute(w)` (R131). `raise` leaves a halted block unchanged, as R131 asks for an ILLEGAL word. -/
def performWord (w : Word) (s : State) : Host.Outcome State Fault Refusal :=
  match decodeWord w with
  | .instr i => exec i s
  | .illegal _ => .next (raise w .illegalCmd .m0 s)

/-- What an environment call does outside the block's registers: an answer is used up, the pins take their level,
the call is on record. -/
def repeatCall (s : State) : EnvCall → State
  | .sampleRead m _ => sampleRead m s
  | .outWrite m p _ => outWrite m p s

/-- The calls a command made, given the states before and after it. -/
def callsMade (before after : State) : List EnvCall := after.calls.drop before.calls.length

/-- A command abandoned when it has made `k` environment calls: those calls "keep their physical effect", no further
one is made, and every register goes to its reset value (R151; log entry 10). -/
def cutCommand (w : Word) (k : Nat) (s : State) : Host.Outcome State Fault Refusal :=
  match performWord w s with
  | .next t => .next (assertReset (((callsMade s t).take k).foldl repeatCall s))
  | .fault f => .fault f
  | .refused r => .refused r

/-- One item of the host's. A word offered while `rst` is asserted does nothing (DEDUCED from R151, log entry 8). -/
def acceptInput (x : HostInput) (s : State) : Host.Outcome State Fault Refusal :=
  match x with
  | .command w => if s.rst then .next s else performWord w s
  | .commandCut w k => if s.rst then .next s else cutCommand w k s
  | .rst true => .next (assertReset s)
  | .rst false => .next (releaseReset s)

/-- Take the host's next item; with none, the block is idle "and holds all its state while idle" (60_exceptions.md
R148). -/
def takeNext (s : State) : Host.Outcome State Fault Refusal :=
  match s.host with
  | [] => .next s
  | x :: rest => acceptInput x (s.setHost rest)

/-- Offer the word `w` next, at a block whose `rst` is released. -/
def offerWord (w : Word) (s : State) : State := { s with rst := false, host := .command w :: s.host }

end Sys2Proof.Machine
end

