-- ==== Sys2Proof/Machine/Step.lean ====
section
/-! DEFINITION. One step of the machine, and placing a command where the next step takes it. -/

namespace Sys2Proof.Machine

/-- One step: the host's next item is taken and carried out (spec/10_state.md R14, R15; 20_memory.md R55). -/
def step (s : State) : Host.Outcome State Fault Refusal := takeNext s

/-- `s` with the word `w` offered on `cmd` before anything else, so that the next step performs it. Every command is
32 bits (30_encoding.md R61), so `nbits` says nothing more. -/
def State.withFetchWord (s : State) (_nbits w : Nat) : State := offerWord (BitVec.ofNat 32 w) s

end Sys2Proof.Machine
end

