-- ==== Sys2Proof/WellFormed.lean ====
section
/-! DEFINITION. Source commands with their operands as the numbers a programmer writes, and the checks an assembler
makes of them (spec/30_encoding.md R72, R73): "An assembler refuses an out-of-range operand and does not truncate
it." `Instr` itself needs no check: its operand types admit no out-of-range value. -/

namespace Sys2Proof

/-- A source command: the nine mnemonics (R72) and the seven pseudo-instructions (R73), operands as numbers. A
register operand stands here after its name has been looked up. -/
inductive SourceCmd where
  | nop
  | stepf (m : Nat)
  | stepb (m : Nat)
  | stop (m : Nat)
  | decode (m sample : Nat)
  | tick
  | wrcfg (reg value : Nat)
  | rdreg (reg : Nat)
  | start
  | fullstep (m : Nat)
  | halfstep (m : Nat)
  | policy (skip : Bool)
  | setdelay (dmin dmax : Nat)
  | calib (m center thresh lo hi : Nat)
  | stopall
  deriving DecidableEq, Repr

/-- R72: `m` is 0 or 1. -/
def motorInRange (m : Nat) : Bool := m ≤ 1

/-- R72 and R62: a register number is 8 bits. -/
def regInRange (r : Nat) : Bool := r ≤ 0xFF

/-- R72: `sample` and `value` are in 0..65535. -/
def immInRange (v : Nat) : Bool := v ≤ 0xFFFF

/-- Every operand is in the range R72 gives it. -/
def SourceCmd.wellFormed : SourceCmd → Bool
  | .nop | .tick | .start | .stopall | .policy _ => true
  | .stepf m | .stepb m | .stop m | .fullstep m | .halfstep m => motorInRange m
  | .decode m sample => motorInRange m && immInRange sample
  | .wrcfg reg value => regInRange reg && immInRange value
  | .rdreg reg => regInRange reg
  | .setdelay dmin dmax => immInRange dmin && immInRange dmax
  | .calib m c t lo hi => motorInRange m && immInRange c && immInRange t && immInRange lo && immInRange hi

end Sys2Proof
end

