-- ==== Sys2Proof/Machine/Assembler.lean ====
section
/-! DEFINITION. The host's toolchain: source commands to words (spec/30_encoding.md R72, R73), and the reader of a
source line (R71). No command of the block uses it. -/

namespace Sys2Proof

/-! ### Source commands to commands (R72, R73) -/

/-- The channel an in-range number names. -/
def motorOfNat (m : Nat) : Motor := if m = 0 then .m0 else .m1

/-- `WRCFG reg, value` with both operands as numbers. -/
def wrcfgOf (reg value : Nat) : Instr := .wrcfg (BitVec.ofNat 8 reg) (BitVec.ofNat 16 value)

/-- The commands a source command stands for, in order: one for a mnemonic, its expansion for a pseudo-instruction
(R73). MODE<m> is register 0x0B + m, bank <m> starts at 4 * m (10_state.md R17, R39). -/
def SourceCmd.expand : SourceCmd → List Instr
  | .nop => [.nop]
  | .stepf m => [.stepf (motorOfNat m)]
  | .stepb m => [.stepb (motorOfNat m)]
  | .stop m => [.stop (motorOfNat m)]
  | .decode m x => [.decode (motorOfNat m) (BitVec.ofNat 16 x)]
  | .tick => [.tick]
  | .wrcfg reg value => [wrcfgOf reg value]
  | .rdreg reg => [.rdreg (BitVec.ofNat 8 reg)]
  | .start => [.start]
  | .fullstep m => [wrcfgOf (0x0B + m) 0]
  | .halfstep m => [wrcfgOf (0x0B + m) 1]
  | .policy skip => [wrcfgOf 0x0D (if skip then 1 else 0)]
  | .setdelay dmin dmax => [wrcfgOf 0x08 dmin, wrcfgOf 0x09 dmax]
  | .calib m c t lo hi =>
    [wrcfgOf (4 * m) c, wrcfgOf (4 * m + 1) t, wrcfgOf (4 * m + 2) lo, wrcfgOf (4 * m + 3) hi]
  | .stopall => [.stop .m0, .stop .m1]

/-- The words of a source command; none where an operand is out of range (R72: "refuses an out-of-range operand and
does not truncate it"). -/
def assemble (c : SourceCmd) : Option (List Word) :=
  if c.wellFormed then some (c.expand.map encode) else none

/-! ### Source lines (R71) -/

/-- A blank between the parts of a line. DESIGN CHOICE (log entry 17): the space and the tab. -/
def isBlank (c : Char) : Bool := c == ' ' || c == '\t'

/-- Blanks taken off both ends. -/
def trimBlanks (cs : List Char) : List Char := ((cs.dropWhile isBlank).reverse.dropWhile isBlank).reverse

/-- R71: "A `;` starts a comment that runs to the end of the line". -/
def stripComment (cs : List Char) : List Char := cs.takeWhile (fun c => c != ';')

/-- The operands between commas, blanks trimmed. -/
def splitCommas : List Char → List (List Char)
  | [] => [[]]
  | c :: cs =>
    if c == ',' then [] :: splitCommas cs
    else match splitCommas cs with
      | part :: more => (c :: part) :: more
      | [] => [[c]]

/-- The value of a digit. -/
def digitVal (c : Char) : Option Nat :=
  if '0'.toNat ≤ c.toNat ∧ c.toNat ≤ '9'.toNat then some (c.toNat - '0'.toNat)
  else if 'A'.toNat ≤ c.toNat ∧ c.toNat ≤ 'F'.toNat then some (c.toNat - 'A'.toNat + 10)
  else if 'a'.toNat ≤ c.toNat ∧ c.toNat ≤ 'f'.toNat then some (c.toNat - 'a'.toNat + 10)
  else none

/-- Digits in a base, after the number `acc`. -/
def digitsVal (base : Nat) (acc : Nat) : List Char → Option Nat
  | [] => some acc
  | c :: cs =>
    match digitVal c with
    | some d => if d < base then digitsVal base (base * acc + d) cs else none
    | none => none

/-- R71: "Numbers are decimal, or hexadecimal with `0x`". -/
def readNumber : List Char → Option Nat
  | [] => none
  | ['0', 'x'] => none
  | '0' :: 'x' :: cs => digitsVal 16 0 cs
  | cs => digitsVal 10 0 cs

/-- R72: `m` is `0` or `1`, "also spelled `M0` or `M1`"; any other number is left to the range check. -/
def readMotor (cs : List Char) : Option Nat :=
  if cs = "M0".toList then some 0 else if cs = "M1".toList then some 1 else readNumber cs

/-- The register names of 10_state.md R17. -/
def regNames : List (String × Nat) :=
  [("CAL_CENTER0", 0x00), ("CAL_THRESH0", 0x01), ("CAL_MIN0", 0x02), ("CAL_MAX0", 0x03),
   ("CAL_CENTER1", 0x04), ("CAL_THRESH1", 0x05), ("CAL_MIN1", 0x06), ("CAL_MAX1", 0x07),
   ("MIN_DELAY", 0x08), ("MAX_DELAY", 0x09), ("TICK_Q", 0x0A), ("MODE0", 0x0B), ("MODE1", 0x0C), ("CTRL", 0x0D),
   ("STATUS", 0x10), ("IOERR_CNT", 0x11), ("IDX0", 0x12), ("IDX1", 0x13), ("COIL0", 0x14), ("COIL1", 0x15),
   ("ELAPSED0", 0x16), ("ELAPSED1", 0x17), ("CMD0", 0x18), ("CMD1", 0x19), ("FAULT_CMD", 0x1A)]

/-- R72: `reg` is a register name or its number. -/
def readReg (cs : List Char) : Option Nat :=
  match regNames.find? (fun r => r.1.toList == cs) with
  | some r => some r.2
  | none => readNumber cs

/-- R73: `POLICY HALT` or `POLICY SKIP`. -/
def readPolicy (cs : List Char) : Option Bool :=
  if cs = "HALT".toList then some false else if cs = "SKIP".toList then some true else none

/-- The mnemonics with one motor operand. -/
def motorForms : List (String × (Nat → SourceCmd)) :=
  [("STEPF", .stepf), ("STEPB", .stepb), ("STOP", .stop), ("FULLSTEP", .fullstep), ("HALFSTEP", .halfstep)]

/-- The mnemonics without operands. -/
def plainForms : List (String × SourceCmd) :=
  [("NOP", .nop), ("TICK", .tick), ("START", .start), ("STOPALL", .stopall)]

/-- The source command of a mnemonic and its operands (R72, R73). -/
def readCommand (name : List Char) (ops : List (List Char)) : Option SourceCmd :=
  match ops with
  | [] => (plainForms.find? (fun f => f.1.toList == name)).map (fun f => f.2)
  | [a] =>
    if name = "RDREG".toList then (readReg a).map .rdreg
    else if name = "POLICY".toList then (readPolicy a).map .policy
    else match motorForms.find? (fun f => f.1.toList == name) with
      | some f => (readMotor a).map f.2
      | none => none
  | [a, b] =>
    if name = "DECODE".toList then
      match readMotor a, readNumber b with
      | some m, some x => some (.decode m x)
      | _, _ => none
    else if name = "WRCFG".toList then
      match readReg a, readNumber b with
      | some r, some v => some (.wrcfg r v)
      | _, _ => none
    else if name = "SETDELAY".toList then
      match readNumber a, readNumber b with
      | some x, some y => some (.setdelay x y)
      | _, _ => none
    else none
  | [a, b, c, d, e] =>
    if name = "CALIB".toList then
      match readMotor a, readNumber b, readNumber c, readNumber d, readNumber e with
      | some m, some w, some x, some y, some z => some (.calib m w x y z)
      | _, _, _, _, _ => none
    else none
  | _ => none

/-- What a source line holds. -/
inductive SourceLine where
  /-- Blanks or a comment only. -/
  | empty
  | command (c : SourceCmd)
  /-- Not a command of R72 or R73. -/
  | malformed
  deriving DecidableEq, Repr

/-- Read one source line (R71): the mnemonic, then the operands separated by commas. -/
def readLine (cs : List Char) : SourceLine :=
  match trimBlanks (stripComment cs) with
  | [] => .empty
  | text =>
    let name := text.takeWhile (fun c => !isBlank c)
    let rest := trimBlanks (text.dropWhile (fun c => !isBlank c))
    match readCommand name (if rest.isEmpty then [] else (splitCommas rest).map trimBlanks) with
    | some c => .command c
    | none => .malformed

/-- The words of a source text, line by line; none where a line is malformed or an operand out of range. -/
def assembleText : List String → Option (List Word)
  | [] => some []
  | line :: more =>
    match readLine line.toList, assembleText more with
    | .empty, some ws => some ws
    | .command c, some ws => (assemble c).map (fun w => w ++ ws)
    | _, _ => none

end Sys2Proof
end

