-- ==== Sys2Proof/Safety.lean ====
section
/-! DEFINITION. What counts as a sound state of the block, in the terms the claims use. `SafeState` gathers the
invariants the spec states of every reachable state. -/

namespace Sys2Proof.Machine

/-- In the run phase and not halted: the commands of R120's second list are performed. -/
abbrev Running (s : State) : Prop := s.status.halted = false ∧ s.status.run = true

/-- In the configuration phase and not halted: the commands of R120's first list are performed. -/
abbrev Configuring (s : State) : Prop := s.status.halted = false ∧ s.status.run = false

/-- 10_state.md R32, 40_sequencer.md R88: `0 <= IDX[m] < LEN(m)`. -/
abbrev IdxInTable (s : State) : Prop := ∀ m : Motor, (s.chan m).idx.toNat < s.len m

/-- 43_control.md R122: in the configuration phase the sequencers, counters and commands hold their reset values; the
error record does too, since no environment call has been made. -/
abbrev ConfigPhaseFresh (s : State) : Prop :=
  s.status.run = false →
    s.status.ioErr = false ∧ s.ioerrCnt = 0#16 ∧
    ∀ m : Motor, (s.chan m).idx = 0#3 ∧ (s.chan m).coil = 0#4 ∧ (s.chan m).elapsed = 0#32 ∧ (s.chan m).cmd = .stop

/-- A Command whose delay is within the bounds (41_decoder.md R101). -/
abbrev DelayWithin (lo hi : BitVec 16) : Command → Prop
  | .stop => True
  | .forward d | .backward d => lo.toNat ≤ d.toNat ∧ d.toNat ≤ hi.toNat

/-- The fault fields agree (10_state.md R30, 60_exceptions.md R129): nothing is recorded before a fault, a halted
block has a cause, LOGIC_RANGE is never recorded (41_decoder.md R99), and only the I/O causes name motor 1. -/
abbrev FaultRecord (s : State) : Prop :=
  (s.status.halted = false → s.status.cause = .none ∧ s.status.faultM = .m0 ∧ s.faultCmd = 0#32) ∧
  (s.status.halted = true → s.status.cause ≠ .none) ∧
  s.status.cause ≠ .logicRange ∧
  (s.status.faultM = .m1 → s.status.cause = .ioSample ∨ s.status.cause = .ioPin)

/-- The error count agrees with its flag, and only SKIP counts (10_state.md R31). -/
abbrev ErrorsCounted (s : State) : Prop :=
  (s.status.ioErr = true ↔ s.ioerrCnt ≠ 0#16) ∧ (s.status.ioErr = true → s.errPolicy = .skip)

/-- What holds in every reachable state. -/
structure SafeState (s : State) : Prop where
  /-- The index of each sequencer is an entry of its table. -/
  idx : IdxInTable s
  /-- A started block has a valid configuration (43_control.md R128). -/
  config : s.status.run = true → s.ConfigValid
  /-- Nothing has moved before START. -/
  fresh : ConfigPhaseFresh s
  /-- The Commands on view respect the delay bounds. -/
  delays : ∀ m : Motor, DelayWithin s.minDelay s.maxDelay (s.chan m).cmd
  /-- The fault fields agree. -/
  faults : FaultRecord s
  /-- The error fields agree. -/
  errors : ErrorsCounted s
  /-- A running block's coil record is the level of the pins (10_state.md R41, 93_implementation_defined.md U4). -/
  pins : Running s → ∀ m : Motor, (s.env m).pins = (s.chan m).coil
  /-- While `rst` is asserted every register holds its reset value (70_reset_and_hazards.md R151). -/
  held : s.rst = true → resetRegisters s = s

/-! ### Words the claims are stated in -/

/-- The two phase tables as 20_memory.md R47 and R48 list them, index 0 first. -/
def tableOf (tblSel : BitVec 1) : List Pattern :=
  if tblSel = 0#1 then [0xA#4, 0x6#4, 0x5#4, 0x9#4]
  else [0x1#4, 0x3#4, 0x2#4, 0x6#4, 0x4#4, 0xC#4, 0x8#4, 0x9#4]

/-- The table entry of motor `m` at index `i`, for `i < LEN(m)` (R49). -/
def State.entry (s : State) (m : Motor) (i : Nat) : Pattern := (tableOf (s.chan m).mode).getD i 0x0#4

/-- `IDX[m]` as a number. -/
def State.index (s : State) (m : Motor) : Nat := (s.chan m).idx.toNat

/-- `s` with a fault recorded (60_exceptions.md R132): HALTED set, cause, motor and command word kept. -/
@[simps] def State.faulted (s : State) (w : Word) (cause : Cause) (m : Motor) : State :=
  { s with
    status := { run := s.status.run, halted := true, ioErr := s.status.ioErr, cause := cause, faultM := m }
    faultCmd := w }

/-- `s` with an error counted under SKIP (60_exceptions.md R136). -/
@[simps] def State.errorCounted (s : State) : State :=
  { s with
    status := { s.status with ioErr := true }
    ioerrCnt := BitVec.ofNat 16 (min (s.ioerrCnt.toNat + 1) 65535) }

/-- `s` after motor `m`'s outputs were asked to take pattern `p`, answered with success (`ok`) or not, and COIL[m] and
the pins took `level` (20_memory.md R52). One of the environment's answers is used up. -/
def State.wrote (s : State) (m : Motor) (p : Pattern) (ok : Bool) (level : Pattern) : State :=
  ((s.setChan m { s.chan m with coil := level }).setEnv m { (s.env m).afterWrite with pins := level }).logCall
    (.outWrite m p ok)

/-- Commands performed one after another, stopping where the model stops. -/
def execList : List Instr → State → Host.Outcome State Fault Refusal
  | [], s => .next s
  | i :: more, s =>
    match exec i s with
    | .next t => execList more t
    | .fault f => .fault f
    | .refused r => .refused r

/-- An item of the host's that resets the block. -/
def HostInput.resets : HostInput → Bool
  | .command _ => false
  | .rst _ | .commandCut _ _ => true

/-- The host's next item does not reset the block. -/
abbrev NoReset (s : State) : Prop := ∀ x rest, s.host = x :: rest → x.resets = false

/-- The number of motor `m`'s register in a pair whose motor 0 register is `base` (10_state.md R17). -/
def numOf (base : Nat) : Motor → BitVec 8
  | .m0 => BitVec.ofNat 8 base
  | .m1 => BitVec.ofNat 8 (base + 1)

/-- The direction of a step as a Command (10_state.md R38, 42_dispatch.md R110). -/
def Dir.command (dir : Dir) (d : BitVec 16) : Command :=
  match dir with
  | .fwd => .forward d
  | .back => .backward d

/-- The motor an environment call is about. -/
def EnvCall.motor : EnvCall → Motor
  | .sampleRead m _ => m
  | .outWrite m _ _ => m

/-- A call of motor `m`'s sampler. -/
def EnvCall.asksSample (m : Motor) : EnvCall → Bool
  | .sampleRead m' _ => decide (m' = m)
  | .outWrite _ _ _ => false

/-- A call of motor `m`'s pin outputs. -/
def EnvCall.asksWrite (m : Motor) : EnvCall → Bool
  | .sampleRead _ _ => false
  | .outWrite m' _ _ => decide (m' = m)

/-- A call that was answered with the transient hardware error (00_scope.md R11). -/
def EnvCall.failed : EnvCall → Bool
  | .sampleRead _ .failed => true
  | .sampleRead _ (.ok _) => false
  | .outWrite _ _ ok => !ok

/-! ### One motor's part of a TICK, in the terms the claims use (42_dispatch.md R108 to R113, 60_exceptions.md R137) -/

/-- A counter that held `e`, `q` later (R112). With `q = 0` it holds `e` still. -/
def countedBy (e : BitVec 32) (q : Nat) : BitVec 32 := BitVec.ofNat 32 (min (e.toNat + q) (2 ^ 32 - 1))

/-- The index after a successful step from `i` in a table of `len` entries (40_sequencer.md R78). -/
def nextIndex (dir : Dir) (len i : Nat) : Nat :=
  match dir with
  | .fwd => (i + 1) % len
  | .back => (i + len - 1) % len

/-- Motor `m`'s sample decodes to a Command that can be carried out: no LOGIC_RANGE (41_decoder.md R99), no read of an
unpopulated ROM entry (20_memory.md R50). It holds in every started safe state. -/
abbrev CanTick (s : State) (m : Motor) : Prop :=
  ∀ x, s.sampleAnswer m = .ok x →
    ∃ cmd, (s.calib m).decode x = some cmd ∧ (cmd = .stop ∨ s.index m < s.len m)

/-- Every call that a TICK makes for motor `m` is answered with success: its sample is `x`, and its write succeeds
unless the gate of the decoded Command is closed and none is made. -/
abbrev CallsSucceed (s : State) (m : Motor) (x : BitVec 16) : Prop :=
  s.sampleAnswer m = .ok x ∧
    (s.writeAnswer m = .ok ∨
      ∃ dir d, (s.calib m).decode x = some (Dir.command dir d) ∧ (s.chan m).elapsed.toNat < d.toNat)

/-- What a TICK from `s` has done to motor `m` in `t`, and the calls it made for it, where that part raised no fault.
`q` is what was added to the counter: TICK_Q, or 0 where a fault of the other motor's kept the increments from being
made. That COIL and the pins hold the same draw after a failed write is U4 of 93_implementation_defined.md (log
entry 5). -/
inductive MotorTicked (s t : State) (m : Motor) (q : Nat) : List EnvCall → Prop where
  /-- The sample failed, under SKIP: only the counter moves. -/
  | skipped (h : s.sampleAnswer m = .failed)
      (hc : t.chan m = { s.chan m with elapsed := countedBy (s.chan m).elapsed q })
      (he : t.env m = (s.env m).afterSample) : MotorTicked s t m q [.sampleRead m .failed]
  /-- A Stop: the coils are forced low. -/
  | stopped (x : BitVec 16) (h : s.sampleAnswer m = .ok x) (hd : (s.calib m).decode x = some .stop)
      (hw : s.writeAnswer m = .ok)
      (hc : t.chan m = { s.chan m with
        cmd := .stop, coil := 0x0#4, elapsed := countedBy (s.chan m).elapsed q })
      (he : t.env m = { (s.env m).afterSample.afterWrite with pins := 0x0#4 }) :
      MotorTicked s t m q [.sampleRead m (.ok x), .outWrite m 0x0#4 true]
  /-- A Stop whose write failed, under SKIP: COIL and the pins hold the draw. -/
  | stopFailed (x : BitVec 16) (l : Pattern) (h : s.sampleAnswer m = .ok x)
      (hd : (s.calib m).decode x = some .stop) (hw : s.writeAnswer m = .failed l)
      (hc : t.chan m = { s.chan m with cmd := .stop, coil := l, elapsed := countedBy (s.chan m).elapsed q })
      (he : t.env m = { (s.env m).afterSample.afterWrite with pins := l }) :
      MotorTicked s t m q [.sampleRead m (.ok x), .outWrite m 0x0#4 false]
  /-- The gate was open and the step was taken: the entry at the index is written, the index moves, the counter
  starts again. -/
  | stepped (x d : BitVec 16) (dir : Dir) (h : s.sampleAnswer m = .ok x)
      (hd : (s.calib m).decode x = some (dir.command d)) (hg : d.toNat ≤ (s.chan m).elapsed.toNat)
      (hw : s.writeAnswer m = .ok)
      (hc : t.chan m = { s.chan m with
        cmd := dir.command d, coil := s.entry m (s.index m),
        idx := BitVec.ofNat 3 (nextIndex dir (s.len m) (s.index m)), elapsed := BitVec.ofNat 32 q })
      (he : t.env m = { (s.env m).afterSample.afterWrite with pins := s.entry m (s.index m) }) :
      MotorTicked s t m q [.sampleRead m (.ok x), .outWrite m (s.entry m (s.index m)) true]
  /-- The gate was open and the write failed, under SKIP: the index stays and the counter runs on. -/
  | stepFailed (x d : BitVec 16) (dir : Dir) (l : Pattern) (h : s.sampleAnswer m = .ok x)
      (hd : (s.calib m).decode x = some (dir.command d)) (hg : d.toNat ≤ (s.chan m).elapsed.toNat)
      (hw : s.writeAnswer m = .failed l)
      (hc : t.chan m = { s.chan m with
        cmd := dir.command d, coil := l, elapsed := countedBy (s.chan m).elapsed q })
      (he : t.env m = { (s.env m).afterSample.afterWrite with pins := l }) :
      MotorTicked s t m q [.sampleRead m (.ok x), .outWrite m (s.entry m (s.index m)) false]
  /-- The gate was closed: no write is made. -/
  | waited (x d : BitVec 16) (dir : Dir) (h : s.sampleAnswer m = .ok x)
      (hd : (s.calib m).decode x = some (dir.command d)) (hg : (s.chan m).elapsed.toNat < d.toNat)
      (hc : t.chan m = { s.chan m with
        cmd := dir.command d, elapsed := countedBy (s.chan m).elapsed q })
      (he : t.env m = (s.env m).afterSample) : MotorTicked s t m q [.sampleRead m (.ok x)]

/-- What a TICK under SKIP that made the calls `c` has recorded in `t`: motor 0's calls, then motor 1's (20_memory.md
R58), each failure counted (60_exceptions.md R136, R140), and no fault. -/
abbrev TickRecord (s t : State) (c : Motor → List EnvCall) : Prop :=
  t.calls = s.calls ++ c .m0 ++ c .m1 ∧
  t.ioerrCnt.toNat = min (s.ioerrCnt.toNat + (c .m0 ++ c .m1).countP EnvCall.failed) 65535 ∧
  t.status = { s.status with ioErr := s.status.ioErr || (c .m0 ++ c .m1).any EnvCall.failed } ∧
  t.faultCmd = s.faultCmd ∧ t.result = s.result ∧ t.host = s.host ∧ t.rst = s.rst

/-- `Decode(m, x)` of 41_decoder.md R100 over the natural numbers, as the word of R38, for `lo <= hi`. A difference below
that is used is of a larger and a smaller number, except `dmax - dmin` under an invalid configuration, where the map
falls below the floor `dmin` of R98 and the difference 0 gives `dmin` as well. -/
def decodeSpec (c t lo hi dmin dmax x : Nat) : Nat :=
  if c ≤ min (max x lo) hi + t ∧ min (max x lo) hi ≤ c + t then 0
  else if min (max x lo) hi ≤ c then 0x10000 + (dmin + (min (max x lo) hi - lo) * (dmax - dmin) / (c - lo))
  else 0x20000 + (dmin + (hi - min (max x lo) hi) * (dmax - dmin) / (hi - c))

/-- The bounds of a motor's calibration in the order START establishes (R93, 43_control.md R126). -/
abbrev Calib.Valid (k : Calib) : Prop :=
  0 ≤ k.lo ∧ k.lo < k.c ∧ k.c < k.hi ∧ k.hi ≤ 65535 ∧ 0 ≤ k.t ∧ 0 ≤ k.dmin ∧ k.dmin ≤ k.dmax ∧ k.dmax ≤ 65535

/-- The delay of a Command (10_state.md R38). -/
def Command.delay : Command → BitVec 16
  | .stop => 0#16
  | .forward d | .backward d => d

end Sys2Proof.Machine
end

