-- ==== Sys2Proof/Certificates/Slice0/Obligations.lean ====
section
/-! DEFINITION. The statements for the provers. Each docstring cites the rules of spec/ it formalises; where a
statement rests on a choice of the model, it names the log entry. -/

open Sys2Proof Sys2Proof.Machine

/-! ### Encoding (30_encoding.md) -/

/-- Every command, with every operand value, is what its word decodes to (R62, R64 to R66, R72). -/
def Obligations.DecodeOfEncode : Prop := ∀ i : Instr, decodeWord (encode i) = .instr i

/-- Every word that decodes to a command is that command's word (R65, R66), so a recorded FAULT_CMD (R132) is the
word the host offered (log entry 9). -/
def Obligations.EncodeOfDecode : Prop := ∀ (w : Word) (i : Instr), decodeWord w = .instr i → encode i = w

/-- R67, R68: a word is ILLEGAL exactly when its `OP` is 0x9 to 0xF or a field its format marks "must be 0" is set;
such a word raises ILLEGAL_CMD (R131), unless the block is halted (R133). -/
def Obligations.IllegalWordsExactly : Prop :=
  ∀ w : Word,
    ((∃ why, decodeWord w = .illegal why) ↔
      (9 ≤ (opOf w).toNat ∨ rsvOf w ≠ 0#3 ∨
        (opOf w ∈ [0x0#4, 0x5#4, 0x6#4, 0x7#4, 0x8#4] ∧ mOf w ≠ 0#1) ∨
        (opOf w ∈ [0x0#4, 0x1#4, 0x2#4, 0x3#4, 0x4#4, 0x5#4, 0x8#4] ∧ regOf w ≠ 0#8) ∨
        (opOf w ∈ [0x0#4, 0x1#4, 0x2#4, 0x3#4, 0x5#4, 0x7#4, 0x8#4] ∧ immOf w ≠ 0#16))) ∧
    ((∃ why, decodeWord w = .illegal why) → ∀ s : State, s.status.halted = false →
      performWord w s = .next (s.faulted w .illegalCmd .m0))

/-- R65: "No word matches two rows." -/
def Obligations.NoWordMatchesTwoRows : Prop :=
  ∀ (w : Word) (r r' : OpRow), r ∈ opTable → r' ∈ opTable → r.hits w = true → r'.hits w = true → r = r'

/-- R74: the worked encodings, from source lines to words and from words to commands, and the words that decode to
ILLEGAL. -/
def Obligations.WorkedEncodings : Prop :=
  assembleText ["STEPF 1", "STEPB 0", "STOP 1", "DECODE 0, 810", "DECODE 1, 2000", "WRCFG TICK_Q, 1",
      "WRCFG MODE0, 0", "WRCFG CAL_MIN0, 3000", "RDREG IDX0", "RDREG STATUS"] =
    some [0x11000000#32, 0x20000000#32, 0x31000000#32, 0x4000032A#32, 0x410007D0#32, 0x600A0001#32,
      0x600B0000#32, 0x60020BB8#32, 0x70120000#32, 0x70100000#32] ∧
  decodeWord 0x11000000#32 = .instr (.stepf .m1) ∧ encode (.stepf .m1) = 0x11000000#32 ∧
  decodeWord 0x20000000#32 = .instr (.stepb .m0) ∧ encode (.stepb .m0) = 0x20000000#32 ∧
  decodeWord 0x31000000#32 = .instr (.stop .m1) ∧ encode (.stop .m1) = 0x31000000#32 ∧
  decodeWord 0x4000032A#32 = .instr (.decode .m0 810#16) ∧ encode (.decode .m0 810#16) = 0x4000032A#32 ∧
  decodeWord 0x410007D0#32 = .instr (.decode .m1 2000#16) ∧ encode (.decode .m1 2000#16) = 0x410007D0#32 ∧
  decodeWord 0x600A0001#32 = .instr (.wrcfg 0x0A#8 1#16) ∧ encode (.wrcfg 0x0A#8 1#16) = 0x600A0001#32 ∧
  decodeWord 0x600B0000#32 = .instr (.wrcfg 0x0B#8 0#16) ∧ encode (.wrcfg 0x0B#8 0#16) = 0x600B0000#32 ∧
  decodeWord 0x60020BB8#32 = .instr (.wrcfg 0x02#8 3000#16) ∧ encode (.wrcfg 0x02#8 3000#16) = 0x60020BB8#32 ∧
  decodeWord 0x70120000#32 = .instr (.rdreg 0x12#8) ∧ encode (.rdreg 0x12#8) = 0x70120000#32 ∧
  decodeWord 0x70100000#32 = .instr (.rdreg 0x10#8) ∧ encode (.rdreg 0x10#8) = 0x70100000#32 ∧
  decodeWord 0x90000000#32 = .illegal .reservedOp ∧
  decodeWord 0x50000001#32 = .illegal .mustBeZero ∧
  decodeWord 0x12000000#32 = .illegal .mustBeZero ∧
  decodeWord 0x61000000#32 = .illegal .mustBeZero ∧
  decodeWord 0x7000FFFF#32 = .illegal .mustBeZero

/-- 20_memory.md R53: carried as bytes, the byte holding bits 7:0 first, a word decodes as it does whole, and the
bytes after it are left. -/
def Obligations.BytesDecodeAsTheirWord : Prop :=
  ∀ (w : Word) (rest : List Byte),
    decodeBytes (wordBytes w ++ rest) = (decodeWord w, rest) ∧ (wordBytes w).head? = some (w.extractLsb' 0 8)

/-! ### A step, and reset (10_state.md R14, R15; 60_exceptions.md R131; 70_reset_and_hazards.md R151 to R153) -/

/-- A step takes the host's next word and performs the command it decodes to (R14, R131). -/
def Obligations.StepPerformsTheDecodedCommand : Prop :=
  ∀ (s : State) (w : Word) (rest : List HostInput) (i : Instr),
    s.rst = false → s.host = .command w :: rest → decodeWord w = .instr i →
      step s = exec i (s.setHost rest)

/-- A word that decodes to ILLEGAL records ILLEGAL_CMD, and has no effect while halted (R66, R131, R133). -/
def Obligations.StepRefusesIllegalWords : Prop :=
  ∀ (s : State) (w : Word) (rest : List HostInput) (why : IllegalReason),
    s.rst = false → s.host = .command w :: rest → decodeWord w = .illegal why →
      (s.status.halted = false → step s = .next ((s.setHost rest).faulted w .illegalCmd .m0)) ∧
      (s.status.halted = true → step s = .next (s.setHost rest))

/-- With nothing offered the block is idle and holds all its state (60_exceptions.md R148). That an idle step is a
step of the model is its own choice (log entry 7). -/
def Obligations.IdleBlockHoldsItsState : Prop := ∀ s : State, s.host = [] → step s = .next s

/-- The registers a state must show to stand at the reset values of R152; TICK_Q holds the OPEN `TICK_Q_RESET`. -/
def AtResetValues (t : State) : Prop :=
  (∀ m : Motor,
    (t.chan m).calCenter = 1620#16 ∧ (t.chan m).calThresh = 50#16 ∧ (t.chan m).calMin = 0#16 ∧
    (t.chan m).calMax = 2081#16 ∧ (t.chan m).mode = 1#1 ∧ (t.chan m).idx = 0#3 ∧ (t.chan m).coil = 0#4 ∧
    (t.chan m).elapsed = 0#32 ∧ (t.chan m).cmd = .stop) ∧
  t.minDelay = 1#16 ∧ t.maxDelay = 20#16 ∧ t.tickQ = Config.tickQReset ∧ t.ctrl = 0#1 ∧
  t.status.word = 0#32 ∧ t.ioerrCnt = 0#16 ∧ t.faultCmd = 0#32 ∧ t.result = 0#32

/-- R152: the reset state has every register at its reset value, and stands in the configuration phase, not
halted (R151). -/
def Obligations.ResetStateHasResetValues : Prop := AtResetValues State.reset ∧ Configuring State.reset

/-- R151: from every state, asserting `rst` puts every register at its reset value, ends HALTED and RUN, and makes no
environment call; releasing it leaves them so (the port as a level in the state: log entry 8). -/
def Obligations.AssertingResetResetsEveryRegister : Prop :=
  ∀ (s : State) (rest : List HostInput),
    (s.host = .rst true :: rest →
      ∃ t, step s = .next t ∧ AtResetValues t ∧ Configuring t ∧ t.rst = true ∧ t.calls = s.calls ∧ t.host = rest) ∧
    (s.host = .rst false :: rest → s.rst = true →
      ∃ t, step s = .next t ∧ AtResetValues t ∧ Configuring t ∧ t.rst = false ∧ t.calls = s.calls ∧ t.host = rest)

/-- R151: a command abandoned after `k` environment calls leaves the reset values; the calls made are the first `k`
that the whole command would have made, with the answers it would have had, and the answers not asked for, listed and
free, are kept (log entry 10). -/
def Obligations.AbandonedCommandMadeItsFirstCalls : Prop :=
  ∀ (s t : State) (w : Word) (k : Nat) (rest : List HostInput),
    s.rst = false → s.host = .commandCut w k :: rest → performWord w (s.setHost rest) = .next t →
      ∃ u, step s = .next u ∧ AtResetValues u ∧ u.rst = true ∧ u.host = rest ∧
        u.calls = s.calls ++ (t.calls.drop s.calls.length).take k ∧
        (∀ m,
          (u.env m).samples = (s.env m).samples.drop
            (((t.calls.drop s.calls.length).take k).countP (EnvCall.asksSample m)) ∧
          (u.env m).freeSamples = (s.env m).freeSamples +
            (((t.calls.drop s.calls.length).take k).countP (EnvCall.asksSample m) - (s.env m).samples.length) ∧
          (u.env m).writes = (s.env m).writes.drop
            (((t.calls.drop s.calls.length).take k).countP (EnvCall.asksWrite m)) ∧
          (u.env m).freeWrites = (s.env m).freeWrites +
            (((t.calls.drop s.calls.length).take k).countP (EnvCall.asksWrite m) - (s.env m).writes.length)) ∧
        ((t.calls.drop s.calls.length).length ≤ k →
          ∀ m, (u.env m).samples = (t.env m).samples ∧ (u.env m).writes = (t.env m).writes)

/-! ### Faults, phases, halting (60_exceptions.md) -/

/-- R130: the commands a phase does not allow record ILLEGAL_CMD with FAULT_M = 0 and their own word; NOP and RDREG
pass in both phases. -/
def Obligations.PhaseCheck : Prop :=
  ∀ s : State, s.status.halted = false →
    (s.status.run = false → ∀ (m : Motor) (x : BitVec 16),
      exec (.stepf m) s = .next (s.faulted (encode (.stepf m)) .illegalCmd .m0) ∧
      exec (.stepb m) s = .next (s.faulted (encode (.stepb m)) .illegalCmd .m0) ∧
      exec (.stop m) s = .next (s.faulted (encode (.stop m)) .illegalCmd .m0) ∧
      exec (.decode m x) s = .next (s.faulted (encode (.decode m x)) .illegalCmd .m0) ∧
      exec .tick s = .next (s.faulted (encode .tick) .illegalCmd .m0)) ∧
    (s.status.run = true → ∀ (r : BitVec 8) (v : BitVec 16),
      exec (.wrcfg r v) s = .next (s.faulted (encode (.wrcfg r v)) .illegalCmd .m0) ∧
      exec .start s = .next (s.faulted (encode .start) .illegalCmd .m0)) ∧
    exec .nop s = .next s ∧
    (∀ (r : BitVec 8) (v : Word), s.regRead r = some v → exec (.rdreg r) s = .next (s.setResult v))

/-- R133, first part: while HALTED, no word has an effect or makes an environment call, but RDREG of a non-reserved
register, which still reads into RESULT. -/
def Obligations.HaltedBlockIgnoresCommands : Prop :=
  ∀ (s : State) (w : Word) (rest : List HostInput),
    s.rst = false → s.status.halted = true → s.host = .command w :: rest →
      (∀ r v, decodeWord w = .instr (.rdreg r) → s.regRead r = some v →
        step s = .next ((s.setHost rest).setResult v)) ∧
      ((∀ r v, decodeWord w = .instr (.rdreg r) → s.regRead r ≠ some v) → step s = .next (s.setHost rest))

/-- R133, R141, R151: only reset leaves the halted state; until then the recorded fault stands. -/
def Obligations.OnlyResetLeavesHalted : Prop :=
  ∀ s t : State, s.status.halted = true → NoReset s → step s = .next t →
    t.status.halted = true ∧ t.status.cause = s.status.cause ∧ t.status.faultM = s.status.faultM ∧
    t.faultCmd = s.faultCmd

/-- R30: RUN is set only by START and cleared only by reset; no command clears a flag. -/
def Obligations.FlagWriters : Prop :=
  ∀ (i : Instr) (s t : State), exec i s = .next t →
    (s.status.run = false → t.status.run = true → i = .start ∧ s.ConfigValid) ∧
    (s.status.run = true → t.status.run = true) ∧
    (s.status.halted = true → t.status.halted = true) ∧
    (s.status.ioErr = true → t.status.ioErr = true) ∧
    (t.status.ioErr ≠ s.status.ioErr → s.errPolicy = .skip)

/-- R132: a command that ends in a fault records its own word, a cause, and keeps RESULT. -/
def Obligations.FaultKeepsCommandWordAndResult : Prop :=
  ∀ (i : Instr) (s t : State), exec i s = .next t → s.status.halted = false → t.status.halted = true →
    t.faultCmd = encode i ∧ t.status.cause ≠ .none ∧ t.result = s.result ∧
    (t.status.cause = .illegalCmd ∨ t.status.cause = .cfgInvalid → t.status.faultM = .m0)

/-- 10_state.md R37: only DECODE and RDREG write RESULT. -/
def Obligations.ResultWriters : Prop :=
  ∀ (i : Instr) (s t : State), exec i s = .next t → t.result ≠ s.result →
    (∃ m x, i = .decode m x) ∨ (∃ r, i = .rdreg r)

/-- 10_state.md R32, 42_dispatch.md R111: IDX[m] moves only in STEPF m, STEPB m and TICK; CMD and ELAPSED change only
in TICK. -/
def Obligations.SequencerAndCounterWriters : Prop :=
  ∀ (i : Instr) (s t : State) (m : Motor), exec i s = .next t →
    ((t.chan m).idx ≠ (s.chan m).idx → i = .stepf m ∨ i = .stepb m ∨ i = .tick) ∧
    ((t.chan m).elapsed ≠ (s.chan m).elapsed ∨ (t.chan m).cmd ≠ (s.chan m).cmd → i = .tick)

/-! ### The sequencer (40_sequencer.md) -/

/-- STEPF with a successful write (R80, R82): the entry at the index held before is written to COIL[m] and the pins,
then the index goes forward; nothing else changes. -/
def Obligations.StepfWritesThenMovesForward : Prop :=
  ∀ (s : State) (m : Motor), Running s → s.index m < s.len m → s.writeAnswer m = .ok →
    exec (.stepf m) s =
      .next ((s.wrote m (s.entry m (s.index m)) true (s.entry m (s.index m))).setIdx m
        (BitVec.ofNat 3 ((s.index m + 1) % s.len m)))

/-- STEPB with a successful write (R80, R84): the entry at the index held before is written to COIL[m] and the pins,
then the index goes back; nothing else changes. -/
def Obligations.StepbWritesThenMovesBack : Prop :=
  ∀ (s : State) (m : Motor), Running s → s.index m < s.len m → s.writeAnswer m = .ok →
    exec (.stepb m) s =
      .next ((s.wrote m (s.entry m (s.index m)) true (s.entry m (s.index m))).setIdx m
        (BitVec.ofNat 3 ((s.index m + s.len m - 1) % s.len m)))

/-- STOP with a successful write (R79, R86): 0x0 goes to COIL[m] and the pins; nothing else changes. -/
def Obligations.StopForcesCoilsLow : Prop :=
  ∀ (s : State) (m : Motor), Running s → s.writeAnswer m = .ok →
    exec (.stop m) s = .next (s.wrote m 0x0#4 true 0x0#4)

/-- A failed write in STEPF, STEPB or STOP (R77, R79, R80, 60_exceptions.md R136, R137): COIL[m] and the pins hold the
draw, the index does not move; under HALT the command ends with IO_PIN for motor `m`, under SKIP the error is
counted. A failed write in a TICK under HALT (R129, R134, R140, X3 of 95_test_vectors.md), of the 0x0 of a Stop or the
entry of a step whose gate is open, does the same with CMD[m] written: the index and the counters stay; after motor 0's
failure motor 1 is not even sampled, and motor 1's failure lets motor 0's part stand, without the increments. A failed
write in a TICK under SKIP is `TickRetriesAFailedStep`. That COIL[m] and the pins hold the same draw is U4 of
93_implementation_defined.md (log entry 5). -/
def Obligations.FailedPatternWrite : Prop :=
  (∀ (s : State) (m : Motor) (d : Pattern) (i : Instr), Running s → s.writeAnswer m = .failed d →
    (i = .stop m ∨ (s.index m < s.len m ∧ (i = .stepf m ∨ i = .stepb m))) →
      (s.errPolicy = .halt →
        exec i s = .next ((s.wrote m (if i = .stop m then 0x0#4 else s.entry m (s.index m)) false d).faulted
          (encode i) .ioPin m)) ∧
      (s.errPolicy = .skip →
        exec i s = .next (s.wrote m (if i = .stop m then 0x0#4 else s.entry m (s.index m)) false d).errorCounted)) ∧
  (∀ (s : State) (m : Motor) (x y : BitVec 16) (cmd : Command) (p l : Pattern), Running s → s.errPolicy = .halt →
    s.sampleAnswer m = .ok x → (s.calib m).decode x = some cmd → s.writeAnswer m = .failed l →
    ((cmd = .stop ∧ p = 0x0#4) ∨
      (∃ dir d, cmd = Dir.command dir d ∧ d.toNat ≤ (s.chan m).elapsed.toNat ∧ s.index m < s.len m ∧
        p = s.entry m (s.index m))) →
    (m = .m1 → CanTick s .m0 ∧ CallsSucceed s .m0 y) →
      ∃ (t : State) (c : List EnvCall), exec .tick s = .next t ∧
        t.status = { s.status with halted := true, cause := .ioPin, faultM := m } ∧ t.faultCmd = encode .tick ∧
        t.chan m = { s.chan m with cmd := cmd, coil := l } ∧
        t.env m = { (s.env m).afterSample.afterWrite with pins := l } ∧
        t.calls = s.calls ++ c ++ [.sampleRead m (.ok x), .outWrite m p false] ∧
        (m = .m0 → c = [] ∧ t.chan .m1 = s.chan .m1 ∧ t.env .m1 = s.env .m1) ∧
        (m = .m1 → MotorTicked s t .m0 0 c) ∧
        t.ioerrCnt = s.ioerrCnt ∧ t.result = s.result ∧ t.host = s.host ∧ t.rst = s.rst)

/-- R82, R84, R86, "Registers written": whatever the answer, STEPF, STEPB and STOP leave every register but COIL[m],
IDX[m] and the error and fault registers (0x10, 0x11, 0x1A), all of them but those two when the write succeeds, and
always leave RESULT, the other motor's surroundings and pins, and the host's side. STOP leaves IDX[m] too. -/
def Obligations.SequencerCommandFrame : Prop :=
  ∀ (s t : State) (m : Motor) (i : Instr), (i = .stepf m ∨ i = .stepb m ∨ i = .stop m) → Running s →
    exec i s = .next t →
      (∀ n : BitVec 8, n ≠ numOf 0x12 m → n ≠ numOf 0x14 m → n ∉ [0x10#8, 0x11#8, 0x1A#8] →
        t.regRead n = s.regRead n) ∧
      (s.writeAnswer m = .ok → ∀ n : BitVec 8, n ≠ numOf 0x12 m → n ≠ numOf 0x14 m → t.regRead n = s.regRead n) ∧
      (i = .stop m → t.regRead (numOf 0x12 m) = s.regRead (numOf 0x12 m)) ∧
      t.result = s.result ∧ t.env m.other = s.env m.other ∧ t.host = s.host ∧ t.rst = s.rst ∧
      (t.env m).samples = (s.env m).samples

/-- R83: from any index, `LEN(m)` successful STEPF in a row return IDX[m] to it and write each table entry once, in
table order from that index. -/
def Obligations.CyclicClosure : Prop :=
  ∀ (s : State) (m : Motor) (more : List WriteAnswer), Running s → s.index m < s.len m →
    (s.env m).writes = List.replicate (s.len m) .ok ++ more →
      ∃ t, execList (List.replicate (s.len m) (.stepf m)) s = .next t ∧ (t.chan m).idx = (s.chan m).idx ∧
        t.calls = s.calls ++
          (List.range (s.len m)).map (fun j => .outWrite m (s.entry m ((s.index m + j) % s.len m)) true)

/-- R85: a step and its opposite, both successful, leave IDX[m] as it was; the first writes the entry at the index,
the second the entry at the index moved to. -/
def Obligations.InverseSteps : Prop :=
  ∀ (s : State) (m : Motor) (more : List WriteAnswer), Running s → s.index m < s.len m →
    (s.env m).writes = .ok :: .ok :: more →
      (∃ t, execList [.stepf m, .stepb m] s = .next t ∧ (t.chan m).idx = (s.chan m).idx ∧
        t.calls = s.calls ++ [.outWrite m (s.entry m (s.index m)) true,
          .outWrite m (s.entry m ((s.index m + 1) % s.len m)) true]) ∧
      (∃ t, execList [.stepb m, .stepf m] s = .next t ∧ (t.chan m).idx = (s.chan m).idx ∧
        t.calls = s.calls ++ [.outWrite m (s.entry m (s.index m)) true,
          .outWrite m (s.entry m ((s.index m + s.len m - 1) % s.len m)) true])

/-- R90: after STEPF from index `i`, a STEPB writes one more phase in the old direction, and only the STEPB after it
writes the entry at `i`; a reversal from backward to forward is symmetric. -/
def Obligations.ReversalWritesOneMorePhase : Prop :=
  ∀ (s : State) (m : Motor) (more : List WriteAnswer), Running s → s.index m < s.len m →
    (s.env m).writes = .ok :: .ok :: .ok :: more →
      (∃ t, execList [.stepf m, .stepb m, .stepb m] s = .next t ∧
        t.calls = s.calls ++ [.outWrite m (s.entry m (s.index m)) true,
          .outWrite m (s.entry m ((s.index m + 1) % s.len m)) true, .outWrite m (s.entry m (s.index m)) true]) ∧
      (∃ t, execList [.stepb m, .stepf m, .stepf m] s = .next t ∧
        t.calls = s.calls ++ [.outWrite m (s.entry m (s.index m)) true,
          .outWrite m (s.entry m ((s.index m + s.len m - 1) % s.len m)) true,
          .outWrite m (s.entry m (s.index m)) true])

/-- R87: a second successful STOP writes 0x0 again and changes no register; IDX[m] is never touched. -/
def Obligations.StopIsIdempotent : Prop :=
  ∀ (s : State) (m : Motor) (more : List WriteAnswer), Running s → (s.env m).writes = .ok :: .ok :: more →
    ∃ t u, exec (.stop m) s = .next t ∧ exec (.stop m) t = .next u ∧
      u.calls = t.calls ++ [.outWrite m 0x0#4 true] ∧ (u.chan m).coil = 0x0#4 ∧
      (t.chan m).idx = (s.chan m).idx ∧ (∀ n, u.regRead n = t.regRead n) ∧ u.result = t.result

/-- R88: after a successful step COIL[m] is the entry one before (STEPF) or one after (STEPB) the index it leaves. -/
def Obligations.CoilLagsTheIndex : Prop :=
  ∀ (s t : State) (m : Motor), Running s → s.index m < s.len m → s.writeAnswer m = .ok →
    (exec (.stepf m) s = .next t →
      t.index m < t.len m ∧ (t.chan m).coil = t.entry m ((t.index m + t.len m - 1) % t.len m)) ∧
    (exec (.stepb m) s = .next t →
      t.index m < t.len m ∧ (t.chan m).coil = t.entry m ((t.index m + 1) % t.len m))

/-- R82, corner cases: two successful steps in a row, in either direction each, never write the same pattern. -/
def Obligations.SuccessiveStepsWriteDifferentPatterns : Prop :=
  ∀ (s t u : State) (m : Motor) (i j : Instr), Running s → s.index m < s.len m →
    (i = .stepf m ∨ i = .stepb m) → (j = .stepf m ∨ j = .stepb m) →
    s.writeAnswer m = .ok → exec i s = .next t → t.writeAnswer m = .ok → exec j t = .next u →
      (u.chan m).coil ≠ (t.chan m).coil

/-! ### The decoder (41_decoder.md) -/

/-- DECODE with the bounds of the channel in order (R93 to R98, R100, R105): RESULT takes the Command's word, worked out
here over the natural numbers; nothing else changes. A started block's configuration is valid, so its bounds are. -/
def Obligations.DecodePutsCommandInResult : Prop :=
  ∀ (s : State) (m : Motor) (x : BitVec 16), Running s → (s.chan m).calMin.toNat ≤ (s.chan m).calMax.toNat →
    exec (.decode m x) s = .next (s.setResult (BitVec.ofNat 32
      (decodeSpec (s.chan m).calCenter.toNat (s.chan m).calThresh.toNat (s.chan m).calMin.toNat
        (s.chan m).calMax.toNat s.minDelay.toNat s.maxDelay.toNat x.toNat)))

/-- R99, R129: where the bounds of a channel are the wrong way round, DECODE records LOGIC_RANGE for it and keeps
RESULT. No run reaches such a state (`SafeStepKeepsSafe`). -/
def Obligations.DecodeRecordsLogicRange : Prop :=
  ∀ (s : State) (m : Motor) (x : BitVec 16), Running s → (s.chan m).calMax.toNat < (s.chan m).calMin.toNat →
    exec (.decode m x) s = .next (s.faulted (encode (.decode m x)) .logicRange m)

/-- R101: a Forward or Backward result has a delay in `[dmin, dmax]`, at most `dmax - 1` when `dmax > dmin`, and
`dmin` when they are equal. -/
def Obligations.DecodedDelayInRange : Prop :=
  ∀ (k : Calib) (x : BitVec 16) (cmd : Command), k.Valid → k.decode x = some cmd → cmd ≠ .stop →
    k.dmin ≤ zOf cmd.delay ∧ zOf cmd.delay ≤ k.dmax ∧ (k.dmin < k.dmax → zOf cmd.delay ≤ k.dmax - 1) ∧
    (k.dmax = k.dmin → zOf cmd.delay = k.dmin)

/-- R102: every sample at or below `lo` gives Forward at `dmin`, every sample at or above `hi` gives Backward at
`dmin`, unless the dead zone reaches that bound, where the result is Stop. -/
def Obligations.DecoderEndpoints : Prop :=
  ∀ (k : Calib) (x : BitVec 16), k.Valid →
    (zOf x ≤ k.lo → k.decode x = some (if k.c - k.t ≤ k.lo then .stop else .forward (BitVec.ofInt 16 k.dmin))) ∧
    (k.hi ≤ zOf x → k.decode x = some (if k.hi ≤ k.c + k.t then .stop else .backward (BitVec.ofInt 16 k.dmin)))

/-- R103: toward the centre the Forward delay does not fall, away from it the Backward delay does not rise. -/
def Obligations.DecoderMonotone : Prop :=
  ∀ (k : Calib) (x y : BitVec 16), k.Valid → zOf x ≤ zOf y →
    (k.lo ≤ zOf x → zOf y < k.c - k.t →
      ∃ a b, k.decode x = some (.forward a) ∧ k.decode y = some (.forward b) ∧ zOf a ≤ zOf b) ∧
    (k.c + k.t < zOf x → zOf y ≤ k.hi →
      ∃ a b, k.decode x = some (.backward a) ∧ k.decode y = some (.backward b) ∧ zOf b ≤ zOf a)

/-- R104: a dead zone that reaches `lo` leaves no Forward, one that reaches `hi` no Backward; neither makes a
configuration invalid, since `ConfigValid` does not read the threshold. -/
def Obligations.DegenerateDeadZone : Prop :=
  (∀ (k : Calib) (x : BitVec 16) (d : BitVec 16), k.Valid →
    (k.c - k.t ≤ k.lo → k.decode x ≠ some (.forward d)) ∧ (k.hi ≤ k.c + k.t → k.decode x ≠ some (.backward d))) ∧
  (∀ (s : State) (m : Motor) (t : BitVec 16),
    s.ConfigValid → (s.setChan m { s.chan m with calThresh := t }).ConfigValid)

/-- R106: the source's scenario under the reset calibration. -/
def Obligations.ReferenceScenario : Prop :=
  (State.reset.calib .m0).decode 1600#16 = some .stop ∧
  (State.reset.calib .m0).decode 0#16 = some (.forward 1#16) ∧
  (State.reset.calib .m0).decode 2081#16 = some (.backward 1#16) ∧
  (State.reset.calib .m0).decode 810#16 = some (.forward 10#16)

/-! ### The dispatch (42_dispatch.md) -/

/-- TICK with every environment call answered with success (R108, R110 to R113). For each motor, with `cmd` decoded
from its sample: CMD[m] takes it; a Stop forces the coils low; a Forward or Backward whose delay ELAPSED[m] has
reached writes the entry at the index, moves the index and starts the counter again; one whose delay is not reached
does neither; and the counter advances by TICK_Q, saturating. The calls made are those, motor 0's before motor 1's, and
the pins hold what COIL[m] holds. Nothing else changes. -/
def Obligations.TickWithAllCallsSucceeding : Prop :=
  ∀ (s : State) (x : Motor → BitVec 16), Running s → s.ConfigValid → IdxInTable s →
    (∀ m, CallsSucceed s m (x m)) →
      ∃ (t : State) (c : Motor → List EnvCall), exec .tick s = .next t ∧ t.calls = s.calls ++ c .m0 ++ c .m1 ∧
        (∀ m, ∃ cmd, (s.calib m).decode (x m) = some cmd ∧ (t.chan m).cmd = cmd ∧
          (cmd = .stop →
            c m = [.sampleRead m (.ok (x m)), .outWrite m 0x0#4 true] ∧
            (t.chan m).coil = 0x0#4 ∧ (t.chan m).idx = (s.chan m).idx ∧
            (t.env m) = { (s.env m).afterSample.afterWrite with pins := 0x0#4 } ∧
            (t.chan m).elapsed.toNat = min ((s.chan m).elapsed.toNat + s.tickQ.toNat) (2 ^ 32 - 1)) ∧
          (∀ dir d, cmd = Dir.command dir d → d.toNat ≤ (s.chan m).elapsed.toNat →
            c m = [.sampleRead m (.ok (x m)), .outWrite m (s.entry m (s.index m)) true] ∧
            (t.chan m).coil = s.entry m (s.index m) ∧
            (t.env m) = { (s.env m).afterSample.afterWrite with pins := s.entry m (s.index m) } ∧
            t.index m = nextIndex dir (s.len m) (s.index m) ∧
            (t.chan m).elapsed.toNat = s.tickQ.toNat) ∧
          (∀ dir d, cmd = Dir.command dir d → (s.chan m).elapsed.toNat < d.toNat →
            c m = [.sampleRead m (.ok (x m))] ∧
            (t.chan m).coil = (s.chan m).coil ∧ (t.chan m).idx = (s.chan m).idx ∧
            t.env m = (s.env m).afterSample ∧ (t.env m).pins = (s.env m).pins ∧
            (t.chan m).elapsed.toNat = min ((s.chan m).elapsed.toNat + s.tickQ.toNat) (2 ^ 32 - 1))) ∧
        (∀ m, (t.chan m).mode = (s.chan m).mode ∧ t.calib m = s.calib m) ∧
        t.tickQ = s.tickQ ∧ t.ctrl = s.ctrl ∧ t.status = s.status ∧ t.ioerrCnt = s.ioerrCnt ∧
        t.faultCmd = s.faultCmd ∧ t.result = s.result ∧ t.host = s.host ∧ t.rst = s.rst

/-- R110, "Registers written": whatever the answers, TICK leaves the configuration registers (0x00 to 0x0D), RESULT
and the host's side, and leaves FAULT_CMD unless it ends in a fault. -/
def Obligations.TickFrame : Prop :=
  ∀ s t : State, Running s → exec .tick s = .next t →
    (∀ n : BitVec 8, n.toNat ≤ 0x0D → t.regRead n = s.regRead n) ∧ t.result = s.result ∧
    (t.status.halted = false → t.faultCmd = s.faultCmd ∧ t.status.cause = s.status.cause) ∧
    (s.errPolicy = .halt → t.ioerrCnt = s.ioerrCnt ∧ t.status.ioErr = s.status.ioErr) ∧
    t.host = s.host ∧ t.rst = s.rst

/-- R111, R112: in every TICK not ended by a fault each counter advances by TICK_Q, saturating, from 0 when the motor
took a step (its index moved) and else from where it stood. -/
def Obligations.CountersAdvanceEveryTick : Prop :=
  ∀ s t : State, Running s → exec .tick s = .next t → t.status.halted = false →
    ∀ m, (t.chan m).elapsed.toNat =
      min ((if (t.chan m).idx = (s.chan m).idx then (s.chan m).elapsed.toNat else 0) + s.tickQ.toNat) (2 ^ 32 - 1)

/-- 20_memory.md R58, 60_exceptions.md R138: in one TICK every environment call for motor 0 comes before any for
motor 1; each motor's sampler is asked at most once, and first, and its outputs at most once. -/
def Obligations.TickCallsInMotorOrder : Prop :=
  ∀ s t : State, Running s → exec .tick s = .next t →
    ∃ c0 c1 : List EnvCall, t.calls = s.calls ++ c0 ++ c1 ∧
      (∀ e ∈ c0, e.motor = .m0) ∧ (∀ e ∈ c1, e.motor = .m1) ∧
      c0.head? = some (.sampleRead .m0 (s.sampleAnswer .m0)) ∧ c0.length ≤ 2 ∧ c1.length ≤ 2 ∧
      (∀ e ∈ c1.head?, e = .sampleRead .m1 (s.sampleAnswer .m1)) ∧
      (∀ e ∈ c0.tail ++ c1.tail, ∃ m p ok, e = .outWrite m p ok)

/-- R134, X1: a TICK that fails at motor 0's sample under HALT records IO_SAMPLE for motor 0 and changes no other
register; no call for motor 1 is made. -/
def Obligations.TickFirstSampleFailsUnderHalt : Prop :=
  ∀ s : State, Running s → s.errPolicy = .halt → s.sampleAnswer .m0 = .failed →
    ∃ t, exec .tick s = .next t ∧ t.status = { s.status with halted := true, cause := .ioSample, faultM := .m0 } ∧
      t.faultCmd = encode .tick ∧
      (∀ n : BitVec 8, n ≠ 0x10#8 → n ≠ 0x1A#8 → t.regRead n = s.regRead n) ∧ t.result = s.result ∧
      t.calls = s.calls ++ [.sampleRead .m0 .failed]

/-- R134, X2: a TICK that fails at motor 1's sample under HALT keeps all it did to motor 0 (`MotorTicked`: CMD, the
pattern, the index one on or one back and the counter at 0 after a step), changes nothing of motor 1's registers, and
skips both increments. The last clause says what motor 0's step left. -/
def Obligations.TickSecondSampleFailsUnderHalt : Prop :=
  ∀ (s : State) (x : BitVec 16), Running s → s.errPolicy = .halt → CanTick s .m0 → CallsSucceed s .m0 x →
    s.sampleAnswer .m1 = .failed →
      ∃ (t : State) (c : List EnvCall), exec .tick s = .next t ∧
        t.status = { s.status with halted := true, cause := .ioSample, faultM := .m1 } ∧
        t.faultCmd = encode .tick ∧ MotorTicked s t .m0 0 c ∧ t.chan .m1 = s.chan .m1 ∧
        t.env .m1 = (s.env .m1).afterSample ∧ t.calls = s.calls ++ c ++ [.sampleRead .m1 .failed] ∧
        t.ioerrCnt = s.ioerrCnt ∧ t.result = s.result ∧ t.host = s.host ∧ t.rst = s.rst ∧
        (∀ dir d, (s.calib .m0).decode x = some (Dir.command dir d) → d.toNat ≤ (s.chan .m0).elapsed.toNat →
          (t.chan .m0).cmd = Dir.command dir d ∧ (t.chan .m0).coil = s.entry .m0 (s.index .m0) ∧
          t.index .m0 = nextIndex dir (s.len .m0) (s.index .m0) ∧ (t.chan .m0).elapsed = 0#32)

/-- R137, first item: under SKIP a motor whose sample fails, motor 0 or motor 1, keeps CMD, COIL and IDX and its pins,
its counter still advances, every failure is counted, and the other motor's part is done whatever its answers
(`MotorTicked`). That COIL and the pins of the other motor hold the same draw after its failed write is U4 of
93_implementation_defined.md (log entry 5). -/
def Obligations.TickSkipsAFailedSample : Prop :=
  ∀ (s : State) (m : Motor), Running s → s.errPolicy = .skip → s.sampleAnswer m = .failed → CanTick s m.other →
    ∃ (t : State) (c : Motor → List EnvCall), exec .tick s = .next t ∧ TickRecord s t c ∧
      c m = [.sampleRead m .failed] ∧
      t.chan m = { s.chan m with elapsed := countedBy (s.chan m).elapsed s.tickQ.toNat } ∧
      t.env m = (s.env m).afterSample ∧
      MotorTicked s t m.other s.tickQ.toNat (c m.other)

/-- R137, second and third item: under SKIP a write that fails in a TICK, motor 0's or motor 1's, leaves a draw in
COIL[m] and the pins and the index where it was. A step's failure does not restart the counter, so that the gate stays
open; a stop's changes nothing else. Every failure is counted, and the other motor's part is done whatever its answers
(`MotorTicked`). That COIL and the pins of a motor hold the same draw after its failed write is U4 of
93_implementation_defined.md (log entry 5). -/
def Obligations.TickRetriesAFailedStep : Prop :=
  ∀ (s : State) (m : Motor) (x : BitVec 16) (l : Pattern), Running s → s.errPolicy = .skip →
    s.sampleAnswer m = .ok x → s.writeAnswer m = .failed l → CanTick s m.other →
    (∀ dir d, (s.calib m).decode x = some (Dir.command dir d) → d.toNat ≤ (s.chan m).elapsed.toNat →
      s.index m < s.len m →
        ∃ (t : State) (c : Motor → List EnvCall), exec .tick s = .next t ∧ TickRecord s t c ∧
          c m = [.sampleRead m (.ok x), .outWrite m (s.entry m (s.index m)) false] ∧
          t.chan m = { s.chan m with
            cmd := Dir.command dir d, coil := l, elapsed := countedBy (s.chan m).elapsed s.tickQ.toNat } ∧
          t.env m = { (s.env m).afterSample.afterWrite with pins := l } ∧
          d.toNat ≤ (t.chan m).elapsed.toNat ∧
          MotorTicked s t m.other s.tickQ.toNat (c m.other)) ∧
    ((s.calib m).decode x = some .stop →
      ∃ (t : State) (c : Motor → List EnvCall), exec .tick s = .next t ∧ TickRecord s t c ∧
        c m = [.sampleRead m (.ok x), .outWrite m 0x0#4 false] ∧
        t.chan m = { s.chan m with
          cmd := .stop, coil := l, elapsed := countedBy (s.chan m).elapsed s.tickQ.toNat } ∧
        t.env m = { (s.env m).afterSample.afterWrite with pins := l } ∧
        MotorTicked s t m.other s.tickQ.toNat (c m.other))

/-- R118: in two TICKs not ended by a fault, what happens to motor `m`'s registers and surroundings depends on nothing
of the other motor's, nor on any register but motor `m`'s, the delay bounds and TICK_Q. -/
def Obligations.MotorsAreIndependent : Prop :=
  ∀ (s s' t t' : State) (m : Motor), Running s → Running s' →
    s.chan m = s'.chan m → s.env m = s'.env m →
    s.minDelay = s'.minDelay → s.maxDelay = s'.maxDelay → s.tickQ = s'.tickQ →
    exec .tick s = .next t → exec .tick s' = .next t' → t.status.halted = false → t'.status.halted = false →
      t.chan m = t'.chan m ∧ t.env m = t'.env m

/-- R114: in a run of TICKs in which motor `m`'s command is always the same Forward or Backward with delay `d` and
every call for it succeeds, the first step comes at tick `1 + max(0, ceil((d - e) / q))` and then one every
`max(1, ceil(d / q))` ticks, and no other tick steps. `σ k` is the state before tick `k + 1`. -/
def Obligations.StepPeriod : Prop :=
  ∀ (σ : Nat → State) (n : Nat) (m : Motor) (dir : Dir) (d : BitVec 16),
    (∀ k, k < n → exec .tick (σ k) = .next (σ (k + 1))) → (∀ k, k ≤ n → Running (σ k)) →
    (∀ k, k < n → (σ k).writeAnswer m = .ok ∧
      ∃ x, (σ k).sampleAnswer m = .ok x ∧ ((σ k).calib m).decode x = some (dir.command d)) →
    1 ≤ (σ 0).tickQ.toNat →
      ∀ k, k < n →
        (((σ (k + 1)).chan m).idx ≠ ((σ k).chan m).idx ↔
          ((d.toNat - ((σ 0).chan m).elapsed.toNat) + (σ 0).tickQ.toNat - 1) / (σ 0).tickQ.toNat ≤ k ∧
          (k - ((d.toNat - ((σ 0).chan m).elapsed.toNat) + (σ 0).tickQ.toNat - 1) / (σ 0).tickQ.toNat) %
            max 1 ((d.toNat + (σ 0).tickQ.toNat - 1) / (σ 0).tickQ.toNat) = 0)

/-! ### Control (43_control.md) -/

/-- R119: NOP changes nothing, in every state; only the word 0 is a NOP, and a word with `OP` 0x0 and any other bit set
is ILLEGAL. -/
def Obligations.NopDoesNothing : Prop :=
  (∀ s : State, exec .nop s = .next s) ∧ (∀ w : Word, decodeWord w = .instr .nop ↔ w = 0x00000000#32) ∧
  (∀ w : Word, opOf w = 0x0#4 → w ≠ 0x00000000#32 → ∃ why, decodeWord w = .illegal why)

/-- R17, R123, R124: what RDREG of each register number puts in RESULT, in every state. -/
def Obligations.RdregReadsTheRegisterMap : Prop :=
  ∀ s : State,
    exec (.rdreg 0x00#8) s = .next (s.setResult (s.chan0.calCenter.setWidth 32)) ∧
    exec (.rdreg 0x01#8) s = .next (s.setResult (s.chan0.calThresh.setWidth 32)) ∧
    exec (.rdreg 0x02#8) s = .next (s.setResult (s.chan0.calMin.setWidth 32)) ∧
    exec (.rdreg 0x03#8) s = .next (s.setResult (s.chan0.calMax.setWidth 32)) ∧
    exec (.rdreg 0x04#8) s = .next (s.setResult (s.chan1.calCenter.setWidth 32)) ∧
    exec (.rdreg 0x05#8) s = .next (s.setResult (s.chan1.calThresh.setWidth 32)) ∧
    exec (.rdreg 0x06#8) s = .next (s.setResult (s.chan1.calMin.setWidth 32)) ∧
    exec (.rdreg 0x07#8) s = .next (s.setResult (s.chan1.calMax.setWidth 32)) ∧
    exec (.rdreg 0x08#8) s = .next (s.setResult (s.minDelay.setWidth 32)) ∧
    exec (.rdreg 0x09#8) s = .next (s.setResult (s.maxDelay.setWidth 32)) ∧
    exec (.rdreg 0x0A#8) s = .next (s.setResult (s.tickQ.setWidth 32)) ∧
    exec (.rdreg 0x0B#8) s = .next (s.setResult (s.chan0.mode.setWidth 32)) ∧
    exec (.rdreg 0x0C#8) s = .next (s.setResult (s.chan1.mode.setWidth 32)) ∧
    exec (.rdreg 0x0D#8) s = .next (s.setResult (s.ctrl.setWidth 32)) ∧
    exec (.rdreg 0x10#8) s = .next (s.setResult s.statusPort) ∧
    exec (.rdreg 0x11#8) s = .next (s.setResult (s.ioerrCnt.setWidth 32)) ∧
    exec (.rdreg 0x12#8) s = .next (s.setResult (s.chan0.idx.setWidth 32)) ∧
    exec (.rdreg 0x13#8) s = .next (s.setResult (s.chan1.idx.setWidth 32)) ∧
    exec (.rdreg 0x14#8) s = .next (s.setResult (s.chan0.coil.setWidth 32)) ∧
    exec (.rdreg 0x15#8) s = .next (s.setResult (s.chan1.coil.setWidth 32)) ∧
    exec (.rdreg 0x16#8) s = .next (s.setResult s.chan0.elapsed) ∧
    exec (.rdreg 0x17#8) s = .next (s.setResult s.chan1.elapsed) ∧
    exec (.rdreg 0x18#8) s = .next (s.setResult s.chan0.cmd.word) ∧
    exec (.rdreg 0x19#8) s = .next (s.setResult s.chan1.cmd.word) ∧
    exec (.rdreg 0x1A#8) s = .next (s.setResult s.faultCmd)

/-- 10_state.md R29, R38: the fields of STATUS and of a Command stand at their bits, and every other bit reads 0; the
cause codes are those of 60_exceptions.md R129. -/
def Obligations.StatusAndCommandLayout : Prop :=
  (Cause.none.code.toNat = 0 ∧ Cause.illegalCmd.code.toNat = 1 ∧ Cause.cfgInvalid.code.toNat = 2 ∧
    Cause.ioSample.code.toNat = 3 ∧ Cause.ioPin.code.toNat = 4 ∧ Cause.logicRange.code.toNat = 5) ∧
  (∀ f : Status, f.word.toNat =
    (if f.run then 1 else 0) + 2 * (if f.halted then 1 else 0) + 4 * (if f.ioErr then 1 else 0) +
      16 * f.cause.code.toNat + 256 * (if f.faultM = .m1 then 1 else 0)) ∧
  (∀ d : BitVec 16, Command.stop.word.toNat = 0 ∧ (Command.forward d).word.toNat = 0x10000 + d.toNat ∧
    (Command.backward d).word.toNat = 0x20000 + d.toNat)

/-- 10_state.md R18, 43_control.md R123: RDREG of a reserved number (0x0E, 0x0F, 0x1B to 0xFF) records ILLEGAL_CMD and
keeps RESULT, and has no effect while halted; every other number has a value. -/
def Obligations.RdregOfReservedNumbers : Prop :=
  ∀ (s : State) (n : BitVec 8),
    ((n = 0x0E#8 ∨ n = 0x0F#8 ∨ 0x1B ≤ n.toNat) →
      (s.status.halted = false → exec (.rdreg n) s = .next (s.faulted (encode (.rdreg n)) .illegalCmd .m0)) ∧
      (s.status.halted = true → exec (.rdreg n) s = .next s)) ∧
    (¬(n = 0x0E#8 ∨ n = 0x0F#8 ∨ 0x1B ≤ n.toNat) → ∃ v, s.regRead n = some v)

/-- R121, R122, 10_state.md R16: in the configuration phase WRCFG of an RW register with a value that fits it makes
that register read as the value, and changes no other register, no port, no pin. -/
def Obligations.WrcfgWritesItsRegister : Prop :=
  ∀ (s : State) (n : BitVec 8) (v : BitVec 16), Configuring s → n.toNat ≤ 0x0D →
    (n ∈ [0x0B#8, 0x0C#8, 0x0D#8] → v.toNat ≤ 1) →
      ∃ t, exec (.wrcfg n v) s = .next t ∧ t.regRead n = some (v.setWidth 32) ∧
        (∀ n', n' ≠ n → t.regRead n' = s.regRead n') ∧ t.result = s.result ∧ t.env0 = s.env0 ∧ t.env1 = s.env1 ∧
        t.calls = s.calls ∧ t.host = s.host ∧ t.rst = s.rst

/-- R121: in the configuration phase WRCFG of a read-only or reserved number, or of a 1-bit register with a value
above 1, records ILLEGAL_CMD. -/
def Obligations.WrcfgRefusals : Prop :=
  ∀ (s : State) (n : BitVec 8) (v : BitVec 16), Configuring s →
    (0x0D < n.toNat ∨ (n ∈ [0x0B#8, 0x0C#8, 0x0D#8] ∧ 1 < v.toNat)) →
      exec (.wrcfg n v) s = .next (s.faulted (encode (.wrcfg n v)) .illegalCmd .m0)

/-- R125, R127: START with a valid configuration and both writes answered with success sets RUN and writes 0x0 to
motor 0 and then to motor 1; nothing else changes. -/
def Obligations.StartBringsBothMotorsUp : Prop :=
  ∀ s : State, Configuring s → s.ConfigValid → (∀ m, s.writeAnswer m = .ok) →
    exec .start s = .next
      (((s.setStatus { s.status with run := true }).wrote .m0 0x0#4 true 0x0#4).wrote
        .m1 0x0#4 true 0x0#4)

/-- R125, R126, R129: START with an invalid configuration records CFG_INVALID; RUN stays 0 and no pin is written. -/
def Obligations.StartRejectsInvalidConfiguration : Prop :=
  ∀ s : State, Configuring s →
    (¬((∀ m, (s.chan m).calMin.toNat < (s.chan m).calCenter.toNat ∧
          (s.chan m).calCenter.toNat < (s.chan m).calMax.toNat) ∧
        s.minDelay.toNat ≤ s.maxDelay.toNat ∧ s.tickQ.toNat ≠ 0)) →
      exec .start s = .next (s.faulted (encode .start) .cfgInvalid .m0)

/-- R125, 60_exceptions.md R134, R136, R140: a bring-up write that fails under HALT ends START with IO_PIN, RUN
already set, and a failure of motor 0's write leaves motor 1's unmade; under SKIP each failure is counted, both where
both fail, and START goes on. That COIL and the pins of a motor hold the same draw after its failed write is U4 of
93_implementation_defined.md (log entry 5). -/
def Obligations.StartBringUpWriteFails : Prop :=
  ∀ (s : State) (d d' : Pattern), Configuring s → s.ConfigValid →
    (s.errPolicy = .halt →
      (s.writeAnswer .m0 = .failed d →
        exec .start s = .next
          (((s.setStatus { s.status with run := true }).wrote .m0 0x0#4 false d).faulted
            (encode .start) .ioPin .m0)) ∧
      (s.writeAnswer .m0 = .ok → s.writeAnswer .m1 = .failed d →
        exec .start s = .next
          ((((s.setStatus { s.status with run := true }).wrote .m0 0x0#4 true 0x0#4).wrote
            .m1 0x0#4 false d).faulted (encode .start) .ioPin .m1))) ∧
    (s.errPolicy = .skip →
      (s.writeAnswer .m0 = .failed d → s.writeAnswer .m1 = .ok →
        exec .start s = .next
          ((((s.setStatus { s.status with run := true }).wrote .m0 0x0#4 false d).errorCounted).wrote
            .m1 0x0#4 true 0x0#4)) ∧
      (s.writeAnswer .m0 = .ok → s.writeAnswer .m1 = .failed d →
        exec .start s = .next
          ((((s.setStatus { s.status with run := true }).wrote .m0 0x0#4 true 0x0#4).wrote
            .m1 0x0#4 false d).errorCounted)) ∧
      (s.writeAnswer .m0 = .failed d → s.writeAnswer .m1 = .failed d' →
        exec .start s = .next
          (((((s.setStatus { s.status with run := true }).wrote .m0 0x0#4 false d).errorCounted).wrote
            .m1 0x0#4 false d').errorCounted)))

/-- R128, 40_sequencer.md R91: in the run phase the configuration registers (0x00 to 0x0D) keep their values until
reset. -/
def Obligations.ConfigurationFixedWhileRunning : Prop :=
  ∀ s t : State, s.status.run = true → NoReset s → step s = .next t →
    ∀ n : BitVec 8, n.toNat ≤ 0x0D → t.regRead n = s.regRead n

/-! ### Invariants -/

/-- The reset state is safe. -/
def Obligations.ResetStateIsSafe : Prop := SafeState State.reset

/-- Every step keeps a safe state safe: the index stays in its table (R32, R88), a started block's configuration is
valid (R128), nothing has moved before START (R122), delays stay in bounds (R101), the fault and error records agree
(R30, R31), LOGIC_RANGE is never recorded (R99), and a running block's COIL is the level of its pins (R41). That a
failed write leaves the same draw in both is U4 of 93_implementation_defined.md (log entry 5). -/
def Obligations.SafeStepKeepsSafe : Prop := ∀ s t : State, SafeState s → step s = .next t → SafeState t

/-- In a safe state every step has a next state: no reachable state reads an unpopulated ROM address (20_memory.md
R50), and no command is without a meaning. -/
def Obligations.SafeStateAlwaysSteps : Prop := ∀ s : State, SafeState s → ∃ t, step s = .next t
end

