-- ==== Sys2Proof/Laws/Encoding.lean ====
section
/-! SUPPORT. The fields of a packed word, and what it is to match a row of the opcode map, in terms of fields
(spec/30_encoding.md R62, R63, R65). -/

namespace Sys2Proof

/-! ### The fields of a packed word -/

theorem opOf_packWord (op : BitVec 4) (m : BitVec 1) (reg : BitVec 8) (imm : BitVec 16) :
    opOf (packWord op m reg imm) = op := by
  unfold opOf packWord
  ext i hi
  interval_cases i <;> simp

theorem rsvOf_packWord (op : BitVec 4) (m : BitVec 1) (reg : BitVec 8) (imm : BitVec 16) :
    rsvOf (packWord op m reg imm) = 0#3 := by
  unfold rsvOf packWord
  ext i hi
  interval_cases i <;> simp

theorem mOf_packWord (op : BitVec 4) (m : BitVec 1) (reg : BitVec 8) (imm : BitVec 16) :
    mOf (packWord op m reg imm) = m := by
  unfold mOf packWord
  ext i hi
  interval_cases i
  simp

theorem regOf_packWord (op : BitVec 4) (m : BitVec 1) (reg : BitVec 8) (imm : BitVec 16) :
    regOf (packWord op m reg imm) = reg := by
  unfold regOf packWord
  ext i hi
  interval_cases i <;> simp

theorem immOf_packWord (op : BitVec 4) (m : BitVec 1) (reg : BitVec 8) (imm : BitVec 16) :
    immOf (packWord op m reg imm) = imm := by
  unfold immOf packWord
  ext i hi
  interval_cases i <;> simp

/-- A word whose `RSV` is 0 is its four other fields packed. -/
theorem packWord_fields (w : Word) (h : rsvOf w = 0#3) : packWord (opOf w) (mOf w) (regOf w) (immOf w) = w := by
  have h25 : w.getLsbD 25 = false := by simpa [rsvOf] using congrArg (·.getLsbD 0) h
  have h26 : w.getLsbD 26 = false := by simpa [rsvOf] using congrArg (·.getLsbD 1) h
  have h27 : w.getLsbD 27 = false := by simpa [rsvOf] using congrArg (·.getLsbD 2) h
  unfold opOf mOf regOf immOf packWord
  ext i hi
  interval_cases i <;> simp_all [BitVec.getLsbD_eq_getElem]

/-! ### Motors and their bits -/

theorem bitOfMotor_motorOfBit (b : BitVec 1) : bitOfMotor (motorOfBit b) = b := by
  revert b
  decide

theorem motorOfBit_bitOfMotor (m : Motor) : motorOfBit (bitOfMotor m) = m := by cases m <;> decide

/-! ### Matching a row, format by format -/

/-- Equality under a mask, bit by bit. -/
theorem and_mask_eq_iff (w mask pat : Word) :
    (w &&& mask = pat) ↔ ∀ i : Fin 32, (w.getLsbD i && mask.getLsbD i) = pat.getLsbD i := by
  constructor
  · rintro rfl i
    simp
  · intro h
    ext i hi
    have := h ⟨i, hi⟩
    simp only [BitVec.getLsbD_eq_getElem hi] at this
    simpa using this

/-- Equality of a field, bit by bit. -/
theorem field_eq_iff {n : Nat} (w : Word) (k : Nat) (v : BitVec n) :
    (w.extractLsb' k n = v) ↔ ∀ i : Fin n, w.getLsbD (k + i) = v.getLsbD i := by
  constructor
  · rintro rfl i
    simp
  · intro h
    ext i hi
    have := h ⟨i, hi⟩
    simp only [BitVec.getElem_extractLsb', this]
    exact BitVec.getLsbD_eq_getElem hi

/-- Format N: every field but `OP` must be 0. -/
theorem match_formatN (w : Word) (op : BitVec 4) :
    (w &&& 0xFFFFFFFF#32 = op.setWidth 32 <<< 28) ↔
      opOf w = op ∧ rsvOf w = 0#3 ∧ mOf w = 0#1 ∧ regOf w = 0#8 ∧ immOf w = 0#16 := by
  rw [and_mask_eq_iff]
  simp only [opOf, rsvOf, mOf, regOf, immOf, field_eq_iff]
  simp [Fin.forall_fin_succ]
  tauto

/-- Format M: `RSV`, `REG` and `IMM` must be 0. -/
theorem match_formatM (w : Word) (op : BitVec 4) :
    (w &&& 0xFEFFFFFF#32 = op.setWidth 32 <<< 28) ↔
      opOf w = op ∧ rsvOf w = 0#3 ∧ regOf w = 0#8 ∧ immOf w = 0#16 := by
  rw [and_mask_eq_iff]
  simp only [opOf, rsvOf, regOf, immOf, field_eq_iff]
  simp [Fin.forall_fin_succ]
  tauto

/-- Format MS: `RSV` and `REG` must be 0. -/
theorem match_formatMS (w : Word) (op : BitVec 4) :
    (w &&& 0xFEFF0000#32 = op.setWidth 32 <<< 28) ↔ opOf w = op ∧ rsvOf w = 0#3 ∧ regOf w = 0#8 := by
  rw [and_mask_eq_iff]
  simp only [opOf, rsvOf, regOf, field_eq_iff]
  simp [Fin.forall_fin_succ]
  tauto

/-- Format RI: `RSV` and `M` must be 0. -/
theorem match_formatRI (w : Word) (op : BitVec 4) :
    (w &&& 0xFF000000#32 = op.setWidth 32 <<< 28) ↔ opOf w = op ∧ rsvOf w = 0#3 ∧ mOf w = 0#1 := by
  rw [and_mask_eq_iff]
  simp only [opOf, rsvOf, mOf, field_eq_iff]
  simp [Fin.forall_fin_succ]
  tauto

/-- Format R: `RSV`, `M` and `IMM` must be 0. -/
theorem match_formatR (w : Word) (op : BitVec 4) :
    (w &&& 0xFF00FFFF#32 = op.setWidth 32 <<< 28) ↔
      opOf w = op ∧ rsvOf w = 0#3 ∧ mOf w = 0#1 ∧ immOf w = 0#16 := by
  rw [and_mask_eq_iff]
  simp only [opOf, rsvOf, mOf, immOf, field_eq_iff]
  simp [Fin.forall_fin_succ]
  tauto

/-- The operation codes: the nine defined ones, and the reserved rest (R65, R67). -/
theorem op_cases (o : BitVec 4) :
    o = 0#4 ∨ o = 1#4 ∨ o = 2#4 ∨ o = 3#4 ∨ o = 4#4 ∨ o = 5#4 ∨ o = 6#4 ∨ o = 7#4 ∨ o = 8#4 ∨ 9 ≤ o.toNat := by
  revert o
  decide

end Sys2Proof
end

