-- ==== Sys2Proof/Laws/State.lean ====
section
/-! SUPPORT. The small lemmas of the state's updates: what each named update leaves in each field. The lemmas of
`setStatus`, `setIoerrCnt`, `setFaultCmd`, `setResult`, `logCall` and `setHost` about the plain fields are made by `simps` where
those are defined. -/

namespace Sys2Proof.Machine

variable (s : State) (m m' : Motor)

/-! ### A motor's channel and surroundings -/

theorem chan_m0 : s.chan .m0 = s.chan0 := rfl
theorem chan_m1 : s.chan .m1 = s.chan1 := rfl
theorem env_m0 : s.env .m0 = s.env0 := rfl
theorem env_m1 : s.env .m1 = s.env1 := rfl
theorem setChan_m0 (c : Channel) : s.setChan .m0 c = { s with chan0 := c } := rfl
theorem setChan_m1 (c : Channel) : s.setChan .m1 c = { s with chan1 := c } := rfl
theorem setEnv_m0 (e : MotorEnv) : s.setEnv .m0 e = { s with env0 := e } := rfl
theorem setEnv_m1 (e : MotorEnv) : s.setEnv .m1 e = { s with env1 := e } := rfl

@[simp] theorem other_ne : Motor.other m ≠ m := by cases m <;> decide

@[simp] theorem chan_setChan (c : Channel) : (s.setChan m c).chan m' = if m' = m then c else s.chan m' := by
  cases m <;> cases m' <;> rfl

@[simp] theorem env_setEnv (e : MotorEnv) : (s.setEnv m e).env m' = if m' = m then e else s.env m' := by
  cases m <;> cases m' <;> rfl

@[simp] theorem chan_setEnv (e : MotorEnv) : (s.setEnv m e).chan m' = s.chan m' := by cases m <;> cases m' <;> rfl

@[simp] theorem env_setChan (c : Channel) : (s.setChan m c).env m' = s.env m' := by cases m <;> cases m' <;> rfl

/-- Two states with the same plain fields, channels and surroundings are the same state. -/
theorem state_ext {s t : State} (hc : ∀ m, s.chan m = t.chan m) (he : ∀ m, s.env m = t.env m)
    (h1 : s.minDelay = t.minDelay) (h2 : s.maxDelay = t.maxDelay) (h3 : s.tickQ = t.tickQ) (h4 : s.ctrl = t.ctrl)
    (h5 : s.status = t.status) (h6 : s.ioerrCnt = t.ioerrCnt) (h7 : s.faultCmd = t.faultCmd)
    (h8 : s.result = t.result) (h9 : s.rst = t.rst) (h10 : s.host = t.host) (h11 : s.calls = t.calls) : s = t := by
  have a : s.chan0 = t.chan0 := hc .m0
  have b : s.chan1 = t.chan1 := hc .m1
  have c : s.env0 = t.env0 := he .m0
  have d : s.env1 = t.env1 := he .m1
  cases s
  cases t
  simp only at *
  subst_vars
  rfl

/-! ### `setChan` and `setEnv` leave the plain fields -/

@[simp] theorem setChan_minDelay (c : Channel) : (s.setChan m c).minDelay = s.minDelay := by cases m <;> rfl
@[simp] theorem setChan_maxDelay (c : Channel) : (s.setChan m c).maxDelay = s.maxDelay := by cases m <;> rfl
@[simp] theorem setChan_tickQ (c : Channel) : (s.setChan m c).tickQ = s.tickQ := by cases m <;> rfl
@[simp] theorem setChan_ctrl (c : Channel) : (s.setChan m c).ctrl = s.ctrl := by cases m <;> rfl
@[simp] theorem setChan_status (c : Channel) : (s.setChan m c).status = s.status := by cases m <;> rfl
@[simp] theorem setChan_ioerrCnt (c : Channel) : (s.setChan m c).ioerrCnt = s.ioerrCnt := by cases m <;> rfl
@[simp] theorem setChan_faultCmd (c : Channel) : (s.setChan m c).faultCmd = s.faultCmd := by cases m <;> rfl
@[simp] theorem setChan_result (c : Channel) : (s.setChan m c).result = s.result := by cases m <;> rfl
@[simp] theorem setChan_rst (c : Channel) : (s.setChan m c).rst = s.rst := by cases m <;> rfl
@[simp] theorem setChan_host (c : Channel) : (s.setChan m c).host = s.host := by cases m <;> rfl
@[simp] theorem setChan_calls (c : Channel) : (s.setChan m c).calls = s.calls := by cases m <;> rfl

@[simp] theorem setEnv_minDelay (e : MotorEnv) : (s.setEnv m e).minDelay = s.minDelay := by cases m <;> rfl
@[simp] theorem setEnv_maxDelay (e : MotorEnv) : (s.setEnv m e).maxDelay = s.maxDelay := by cases m <;> rfl
@[simp] theorem setEnv_tickQ (e : MotorEnv) : (s.setEnv m e).tickQ = s.tickQ := by cases m <;> rfl
@[simp] theorem setEnv_ctrl (e : MotorEnv) : (s.setEnv m e).ctrl = s.ctrl := by cases m <;> rfl
@[simp] theorem setEnv_status (e : MotorEnv) : (s.setEnv m e).status = s.status := by cases m <;> rfl
@[simp] theorem setEnv_ioerrCnt (e : MotorEnv) : (s.setEnv m e).ioerrCnt = s.ioerrCnt := by cases m <;> rfl
@[simp] theorem setEnv_faultCmd (e : MotorEnv) : (s.setEnv m e).faultCmd = s.faultCmd := by cases m <;> rfl
@[simp] theorem setEnv_result (e : MotorEnv) : (s.setEnv m e).result = s.result := by cases m <;> rfl
@[simp] theorem setEnv_rst (e : MotorEnv) : (s.setEnv m e).rst = s.rst := by cases m <;> rfl
@[simp] theorem setEnv_host (e : MotorEnv) : (s.setEnv m e).host = s.host := by cases m <;> rfl
@[simp] theorem setEnv_calls (e : MotorEnv) : (s.setEnv m e).calls = s.calls := by cases m <;> rfl

/-! ### The other updates leave the channels and surroundings -/

@[simp] theorem chan_setStatus (v : Status) : (s.setStatus v).chan m = s.chan m := by cases m <;> rfl
@[simp] theorem env_setStatus (v : Status) : (s.setStatus v).env m = s.env m := by cases m <;> rfl
@[simp] theorem chan_setIoerrCnt (v : BitVec 16) : (s.setIoerrCnt v).chan m = s.chan m := by cases m <;> rfl
@[simp] theorem env_setIoerrCnt (v : BitVec 16) : (s.setIoerrCnt v).env m = s.env m := by cases m <;> rfl
@[simp] theorem chan_setFaultCmd (v : Word) : (s.setFaultCmd v).chan m = s.chan m := by cases m <;> rfl
@[simp] theorem env_setFaultCmd (v : Word) : (s.setFaultCmd v).env m = s.env m := by cases m <;> rfl
@[simp] theorem chan_setResult (v : Word) : (s.setResult v).chan m = s.chan m := by cases m <;> rfl
@[simp] theorem env_setResult (v : Word) : (s.setResult v).env m = s.env m := by cases m <;> rfl
@[simp] theorem chan_logCall (v : EnvCall) : (s.logCall v).chan m = s.chan m := by cases m <;> rfl
@[simp] theorem env_logCall (v : EnvCall) : (s.logCall v).env m = s.env m := by cases m <;> rfl
@[simp] theorem chan_setHost (v : List HostInput) : (s.setHost v).chan m = s.chan m := by cases m <;> rfl
@[simp] theorem env_setHost (v : List HostInput) : (s.setHost v).env m = s.env m := by cases m <;> rfl

/-! ### The single-register updates of a channel -/

@[simp] theorem chan_setIdx (v : BitVec 3) :
    (s.setIdx m v).chan m' = if m' = m then { s.chan m with idx := v } else s.chan m' := by
  simp [State.setIdx]

@[simp] theorem env_setIdx (v : BitVec 3) : (s.setIdx m v).env m' = s.env m' := by simp [State.setIdx]

@[simp] theorem setIdx_minDelay (v : BitVec 3) : (s.setIdx m v).minDelay = s.minDelay := by simp [State.setIdx]
@[simp] theorem setIdx_maxDelay (v : BitVec 3) : (s.setIdx m v).maxDelay = s.maxDelay := by simp [State.setIdx]
@[simp] theorem setIdx_tickQ (v : BitVec 3) : (s.setIdx m v).tickQ = s.tickQ := by simp [State.setIdx]
@[simp] theorem setIdx_ctrl (v : BitVec 3) : (s.setIdx m v).ctrl = s.ctrl := by simp [State.setIdx]
@[simp] theorem setIdx_status (v : BitVec 3) : (s.setIdx m v).status = s.status := by simp [State.setIdx]
@[simp] theorem setIdx_ioerrCnt (v : BitVec 3) : (s.setIdx m v).ioerrCnt = s.ioerrCnt := by simp [State.setIdx]
@[simp] theorem setIdx_faultCmd (v : BitVec 3) : (s.setIdx m v).faultCmd = s.faultCmd := by simp [State.setIdx]
@[simp] theorem setIdx_result (v : BitVec 3) : (s.setIdx m v).result = s.result := by simp [State.setIdx]
@[simp] theorem setIdx_rst (v : BitVec 3) : (s.setIdx m v).rst = s.rst := by simp [State.setIdx]
@[simp] theorem setIdx_host (v : BitVec 3) : (s.setIdx m v).host = s.host := by simp [State.setIdx]
@[simp] theorem setIdx_calls (v : BitVec 3) : (s.setIdx m v).calls = s.calls := by simp [State.setIdx]

@[simp] theorem chan_setCoil (v : Pattern) :
    (s.setCoil m v).chan m' = if m' = m then { s.chan m with coil := v } else s.chan m' := by
  simp [State.setCoil]

@[simp] theorem env_setCoil (v : Pattern) : (s.setCoil m v).env m' = s.env m' := by simp [State.setCoil]

@[simp] theorem setCoil_minDelay (v : Pattern) : (s.setCoil m v).minDelay = s.minDelay := by simp [State.setCoil]
@[simp] theorem setCoil_maxDelay (v : Pattern) : (s.setCoil m v).maxDelay = s.maxDelay := by simp [State.setCoil]
@[simp] theorem setCoil_tickQ (v : Pattern) : (s.setCoil m v).tickQ = s.tickQ := by simp [State.setCoil]
@[simp] theorem setCoil_ctrl (v : Pattern) : (s.setCoil m v).ctrl = s.ctrl := by simp [State.setCoil]
@[simp] theorem setCoil_status (v : Pattern) : (s.setCoil m v).status = s.status := by simp [State.setCoil]
@[simp] theorem setCoil_ioerrCnt (v : Pattern) : (s.setCoil m v).ioerrCnt = s.ioerrCnt := by simp [State.setCoil]
@[simp] theorem setCoil_faultCmd (v : Pattern) : (s.setCoil m v).faultCmd = s.faultCmd := by simp [State.setCoil]
@[simp] theorem setCoil_result (v : Pattern) : (s.setCoil m v).result = s.result := by simp [State.setCoil]
@[simp] theorem setCoil_rst (v : Pattern) : (s.setCoil m v).rst = s.rst := by simp [State.setCoil]
@[simp] theorem setCoil_host (v : Pattern) : (s.setCoil m v).host = s.host := by simp [State.setCoil]
@[simp] theorem setCoil_calls (v : Pattern) : (s.setCoil m v).calls = s.calls := by simp [State.setCoil]

@[simp] theorem chan_setElapsed (v : BitVec 32) :
    (s.setElapsed m v).chan m' = if m' = m then { s.chan m with elapsed := v } else s.chan m' := by
  simp [State.setElapsed]

@[simp] theorem env_setElapsed (v : BitVec 32) : (s.setElapsed m v).env m' = s.env m' := by simp [State.setElapsed]

@[simp] theorem setElapsed_minDelay (v : BitVec 32) : (s.setElapsed m v).minDelay = s.minDelay := by simp [State.setElapsed]
@[simp] theorem setElapsed_maxDelay (v : BitVec 32) : (s.setElapsed m v).maxDelay = s.maxDelay := by simp [State.setElapsed]
@[simp] theorem setElapsed_tickQ (v : BitVec 32) : (s.setElapsed m v).tickQ = s.tickQ := by simp [State.setElapsed]
@[simp] theorem setElapsed_ctrl (v : BitVec 32) : (s.setElapsed m v).ctrl = s.ctrl := by simp [State.setElapsed]
@[simp] theorem setElapsed_status (v : BitVec 32) : (s.setElapsed m v).status = s.status := by simp [State.setElapsed]
@[simp] theorem setElapsed_ioerrCnt (v : BitVec 32) : (s.setElapsed m v).ioerrCnt = s.ioerrCnt := by simp [State.setElapsed]
@[simp] theorem setElapsed_faultCmd (v : BitVec 32) : (s.setElapsed m v).faultCmd = s.faultCmd := by simp [State.setElapsed]
@[simp] theorem setElapsed_result (v : BitVec 32) : (s.setElapsed m v).result = s.result := by simp [State.setElapsed]
@[simp] theorem setElapsed_rst (v : BitVec 32) : (s.setElapsed m v).rst = s.rst := by simp [State.setElapsed]
@[simp] theorem setElapsed_host (v : BitVec 32) : (s.setElapsed m v).host = s.host := by simp [State.setElapsed]
@[simp] theorem setElapsed_calls (v : BitVec 32) : (s.setElapsed m v).calls = s.calls := by simp [State.setElapsed]

@[simp] theorem chan_setCmd (v : Command) :
    (s.setCmd m v).chan m' = if m' = m then { s.chan m with cmd := v } else s.chan m' := by
  simp [State.setCmd]

@[simp] theorem env_setCmd (v : Command) : (s.setCmd m v).env m' = s.env m' := by simp [State.setCmd]

@[simp] theorem setCmd_minDelay (v : Command) : (s.setCmd m v).minDelay = s.minDelay := by simp [State.setCmd]
@[simp] theorem setCmd_maxDelay (v : Command) : (s.setCmd m v).maxDelay = s.maxDelay := by simp [State.setCmd]
@[simp] theorem setCmd_tickQ (v : Command) : (s.setCmd m v).tickQ = s.tickQ := by simp [State.setCmd]
@[simp] theorem setCmd_ctrl (v : Command) : (s.setCmd m v).ctrl = s.ctrl := by simp [State.setCmd]
@[simp] theorem setCmd_status (v : Command) : (s.setCmd m v).status = s.status := by simp [State.setCmd]
@[simp] theorem setCmd_ioerrCnt (v : Command) : (s.setCmd m v).ioerrCnt = s.ioerrCnt := by simp [State.setCmd]
@[simp] theorem setCmd_faultCmd (v : Command) : (s.setCmd m v).faultCmd = s.faultCmd := by simp [State.setCmd]
@[simp] theorem setCmd_result (v : Command) : (s.setCmd m v).result = s.result := by simp [State.setCmd]
@[simp] theorem setCmd_rst (v : Command) : (s.setCmd m v).rst = s.rst := by simp [State.setCmd]
@[simp] theorem setCmd_host (v : Command) : (s.setCmd m v).host = s.host := by simp [State.setCmd]
@[simp] theorem setCmd_calls (v : Command) : (s.setCmd m v).calls = s.calls := by simp [State.setCmd]

end Sys2Proof.Machine
end

