-- ==== Sys2Proof/Laws/Ops.lean ====
section
/-! SUPPORT. One lemma per shared operation that says everything it does, for proofs to cite instead of unfolding it.
States are written with `State.faulted`, `State.errorCounted` and `State.wrote` of Safety.lean. -/

namespace Sys2Proof.Machine

variable {s t : State} {w : Word} {m : Motor} {α β : Type}

/-! ### The states the specs are written with -/

@[simp] theorem chan_faulted (c : Cause) (m m' : Motor) : (s.faulted w c m).chan m' = s.chan m' := by cases m' <;> rfl
@[simp] theorem env_faulted (c : Cause) (m m' : Motor) : (s.faulted w c m).env m' = s.env m' := by cases m' <;> rfl
@[simp] theorem chan_errorCounted (m : Motor) : s.errorCounted.chan m = s.chan m := by cases m <;> rfl
@[simp] theorem env_errorCounted (m : Motor) : s.errorCounted.env m = s.env m := by cases m <;> rfl

@[simp] theorem chan_wrote (p l : Pattern) (ok : Bool) (m m' : Motor) :
    (s.wrote m p ok l).chan m' = if m' = m then { s.chan m with coil := l } else s.chan m' := by simp [State.wrote]

@[simp] theorem env_wrote (p l : Pattern) (ok : Bool) (m m' : Motor) :
    (s.wrote m p ok l).env m' = if m' = m then { (s.env m).afterWrite with pins := l } else s.env m' := by
  simp [State.wrote]

@[simp] theorem wrote_calls (p l : Pattern) (ok : Bool) :
    (s.wrote m p ok l).calls = s.calls ++ [.outWrite m p ok] := by simp [State.wrote]
@[simp] theorem wrote_status (p l : Pattern) (ok : Bool) : (s.wrote m p ok l).status = s.status := by simp [State.wrote]
@[simp] theorem wrote_minDelay (p l : Pattern) (ok : Bool) : (s.wrote m p ok l).minDelay = s.minDelay := by
  simp [State.wrote]
@[simp] theorem wrote_maxDelay (p l : Pattern) (ok : Bool) : (s.wrote m p ok l).maxDelay = s.maxDelay := by
  simp [State.wrote]
@[simp] theorem wrote_tickQ (p l : Pattern) (ok : Bool) : (s.wrote m p ok l).tickQ = s.tickQ := by simp [State.wrote]
@[simp] theorem wrote_ctrl (p l : Pattern) (ok : Bool) : (s.wrote m p ok l).ctrl = s.ctrl := by simp [State.wrote]
@[simp] theorem wrote_ioerrCnt (p l : Pattern) (ok : Bool) : (s.wrote m p ok l).ioerrCnt = s.ioerrCnt := by
  simp [State.wrote]
@[simp] theorem wrote_faultCmd (p l : Pattern) (ok : Bool) : (s.wrote m p ok l).faultCmd = s.faultCmd := by
  simp [State.wrote]
@[simp] theorem wrote_result (p l : Pattern) (ok : Bool) : (s.wrote m p ok l).result = s.result := by
  simp [State.wrote]
@[simp] theorem wrote_rst (p l : Pattern) (ok : Bool) : (s.wrote m p ok l).rst = s.rst := by simp [State.wrote]
@[simp] theorem wrote_host (p l : Pattern) (ok : Bool) : (s.wrote m p ok l).host = s.host := by simp [State.wrote]

/-! ### Recording a fault, and the I/O error handler -/

/-- R132: the first fault is recorded. -/
theorem raise_eq_faulted (c : Cause) (h : s.status.halted = false) : raise w c m s = s.faulted w c m := by
  simp [raise, h, State.faulted, State.setStatus, State.setFaultCmd]

/-- R132: a later fault is not. -/
theorem raise_of_halted (c : Cause) (h : s.status.halted = true) : raise w c m s = s := by simp [raise, h]

/-- R136 under HALT, in a block that is not halted. -/
theorem ioError_halt (c : Cause) (hp : s.errPolicy = .halt) (h : s.status.halted = false) :
    ioError w c m s = .ended (s.faulted w c m) := by
  simp [ioError, hp, raise_eq_faulted c h]

/-- R136 under SKIP. -/
theorem ioError_skip (c : Cause) (hp : s.errPolicy = .skip) : ioError w c m s = .cont () s.errorCounted := by
  simp only [ioError, hp]
  rfl

/-- The policy is one or the other (10_state.md R28). -/
theorem errPolicy_cases (s : State) : s.errPolicy = .halt ∨ s.errPolicy = .skip := by
  unfold State.errPolicy
  split
  · exact Or.inl rfl
  · exact Or.inr rfl

@[simp] theorem errPolicy_wrote (p l : Pattern) (ok : Bool) : (s.wrote m p ok l).errPolicy = s.errPolicy := by
  simp [State.errPolicy]

/-! ### The sequencer's primitives -/

/-- R77: a pattern write as `State.wrote`. -/
theorem seqWrite_eq_wrote (p : Pattern) :
    seqWrite m p s = s.wrote m p (ackOf (s.writeAnswer m)) (levelOf p (s.writeAnswer m)) := by
  apply state_ext <;> intros <;> simp [seqWrite, outWrite, State.wrote]

/-- R79, the write succeeding. -/
theorem seqStop_ok (h : s.writeAnswer m = .ok) : seqStop w m s = .cont () (s.wrote m 0x0#4 true 0x0#4) := by
  simp [seqStop, h, seqWrite_eq_wrote, ackOf, levelOf]

/-- R79, the write failing. -/
theorem seqStop_failed {d : Pattern} (h : s.writeAnswer m = .failed d) :
    seqStop w m s = ioError w .ioPin m (s.wrote m 0x0#4 false d) := by
  simp [seqStop, h, seqWrite_eq_wrote, ackOf, levelOf]

/-- R80, the write succeeding: write, then move. -/
theorem seqStepWith_ok (dir : Dir) (p : Pattern) (h : s.writeAnswer m = .ok) :
    seqStepWith w m dir p s =
      .cont true ((s.wrote m p true p).setIdx m (moveIdx dir (s.len m) (s.chan m).idx)) := by
  simp [seqStepWith, h, seqWrite_eq_wrote, ackOf, levelOf]

/-- R80, the write failing: the index stays. -/
theorem seqStepWith_failed (dir : Dir) (p d : Pattern) (h : s.writeAnswer m = .failed d) :
    seqStepWith w m dir p s = (ioError w .ioPin m (s.wrote m p false d)).andThen (fun _ t => .cont false t) := by
  simp [seqStepWith, h, seqWrite_eq_wrote, ackOf, levelOf]

/-- R46 to R49: within the table the ROM reads as the table lists. -/
theorem pattern_eq_entry (h : s.index m < s.len m) : s.pattern m = some (s.entry m (s.index m)) := by
  unfold State.index State.len at h
  unfold State.pattern State.entry State.index
  revert h
  generalize (s.chan m).mode = b
  generalize (s.chan m).idx = i
  revert b i
  decide

/-- Outside it the ROM has no entry (R50). -/
theorem pattern_eq_none (h : ¬ s.index m < s.len m) : s.pattern m = none := by
  unfold State.index State.len at h
  unfold State.pattern
  revert h
  generalize (s.chan m).mode = b
  generalize (s.chan m).idx = i
  revert b i
  decide

/-- R80, R50: a step of a sequencer whose index is in its table. -/
theorem seqStep_of_idx (dir : Dir) (h : s.index m < s.len m) :
    seqStep w m dir s = .ok (seqStepWith w m dir (s.entry m (s.index m)) s) := by
  simp [seqStep, pattern_eq_entry h]

/-- R50: any other step stops the model. -/
theorem seqStep_of_not_idx (dir : Dir) (h : ¬ s.index m < s.len m) :
    seqStep w m dir s = .error (.unpopulatedRom m) := by
  simp [seqStep, pattern_eq_none h]

/-- R78: an index that moves stays in its table. -/
theorem moveIdx_lt (dir : Dir) (b : BitVec 1) (i : BitVec 3) : (moveIdx dir (lenOf b) i).toNat < lenOf b := by
  revert b i
  cases dir <;> decide

/-- A step always moves the index. -/
theorem moveIdx_ne (dir : Dir) (b : BitVec 1) (i : BitVec 3) (h : i.toNat < lenOf b) : moveIdx dir (lenOf b) i ≠ i := by
  revert b i
  cases dir <;> decide

/-! ### Flow -/

@[simp] theorem andThen_cont (a : α) (k : α → State → Flow β) : (Flow.cont a s).andThen k = k a s := rfl
@[simp] theorem andThen_ended (k : α → State → Flow β) : (Flow.ended s : Flow α).andThen k = .ended s := rfl
@[simp] theorem final_cont (a : α) : (Flow.cont a s).final = s := rfl
@[simp] theorem final_ended : (Flow.ended s : Flow α).final = s := rfl
@[simp] theorem thenTry_cont (a : α) (k : α → State → Except Fault (Flow β)) : thenTry (.ok (.cont a s)) k = k a s := rfl
@[simp] theorem thenTry_ended (k : α → State → Except Fault (Flow β)) :
    thenTry (.ok (.ended s : Flow α)) k = .ok (.ended s) := rfl
@[simp] theorem thenTry_error (f : Fault) (k : α → State → Except Fault (Flow β)) :
    thenTry (.error f : Except Fault (Flow α)) k = .error f := rfl
@[simp] theorem settle_ok (x : Flow α) : settle (.ok x) = .next x.final := rfl
@[simp] theorem settle_error (f : Fault) : settle (.error f : Except Fault (Flow α)) = .fault f := rfl

/-- A composed piece that ends well did so in its first part or after it. -/
theorem thenTry_eq_ok {x : Except Fault (Flow α)} {k : α → State → Except Fault (Flow β)} {r : Flow β}
    (h : thenTry x k = .ok r) : (∃ u, x = .ok (.ended u) ∧ r = .ended u) ∨ (∃ a u, x = .ok (.cont a u) ∧ k a u = .ok r) := by
  match x, h with
  | .ok (.ended u), h => exact Or.inl ⟨u, rfl, by simpa using h.symm⟩
  | .ok (.cont a u), h => exact Or.inr ⟨a, u, rfl, h⟩

/-! ### The phase checks -/

/-- R133: a halted block ignores a command of the run phase. -/
theorem inRunPhase_halted (body : Except Fault (Flow Unit)) (h : s.status.halted = true) :
    inRunPhase w s body = .next s := by simp [inRunPhase, h]

/-- R130: before START it is illegal. -/
theorem inRunPhase_configuring (body : Except Fault (Flow Unit)) (h : Configuring s) :
    inRunPhase w s body = .next (s.faulted w .illegalCmd .m0) := by
  simp [inRunPhase, h.1, h.2, raise_eq_faulted]

/-- R130: after START it is performed. -/
theorem inRunPhase_running (body : Except Fault (Flow Unit)) (h : Running s) : inRunPhase w s body = settle body := by
  simp [inRunPhase, h.1, h.2]

/-- R133: a halted block ignores a command of the configuration phase. -/
theorem inConfigPhase_halted (body : State) (h : s.status.halted = true) : inConfigPhase w s body = s := by
  simp [inConfigPhase, h]

/-- R130: before START it is performed. -/
theorem inConfigPhase_configuring (body : State) (h : Configuring s) : inConfigPhase w s body = body := by
  simp [inConfigPhase, h.1, h.2]

/-- R130: after START it is illegal. -/
theorem inConfigPhase_running (body : State) (h : Running s) :
    inConfigPhase w s body = s.faulted w .illegalCmd .m0 := by
  simp [inConfigPhase, h.1, h.2, raise_eq_faulted]

end Sys2Proof.Machine
end

