-- ==== Sys2Proof/Laws/Registers.lean ====
section
/-! SUPPORT. The register map the other way round: the number of each register (spec/10_state.md R17, R39), and which
registers a state update can change. -/

namespace Sys2Proof.Machine

/-- The number of a register in R17. -/
def Reg.num : Reg → BitVec 8
  | .rw (.calCenter m) => numOf 0x00 m + (if m = .m1 then 3#8 else 0#8)
  | .rw (.calThresh m) => numOf 0x01 m + (if m = .m1 then 3#8 else 0#8)
  | .rw (.calMin m) => numOf 0x02 m + (if m = .m1 then 3#8 else 0#8)
  | .rw (.calMax m) => numOf 0x03 m + (if m = .m1 then 3#8 else 0#8)
  | .rw .minDelay => 0x08#8
  | .rw .maxDelay => 0x09#8
  | .rw .tickQ => 0x0A#8
  | .rw (.mode m) => numOf 0x0B m
  | .rw .ctrl => 0x0D#8
  | .ro .status => 0x10#8
  | .ro .ioerrCnt => 0x11#8
  | .ro (.idx m) => numOf 0x12 m
  | .ro (.coil m) => numOf 0x14 m
  | .ro (.elapsed m) => numOf 0x16 m
  | .ro (.cmd m) => numOf 0x18 m
  | .ro .faultCmd => 0x1A#8

/-- A number names only the register it is the number of. -/
theorem num_of_regAt {n : BitVec 8} {r : Reg} (h : regAt n = some r) : r.num = n := by
  have all : ∀ n : BitVec 8, ((regAt n).all fun r => r.num == n) = true := by decide
  have := all n
  simpa [h] using this

/-- Every register is named by its number. -/
theorem regAt_num (r : Reg) : regAt r.num = some r := by
  cases r with
  | rw r => cases r <;> first | rfl | (rename_i m; cases m <;> rfl)
  | ro r => cases r <;> first | rfl | (rename_i m; cases m <;> rfl)

/-- A number reads the same in two states in which the register it names does. -/
theorem regRead_congr {s t : State} {n : BitVec 8} (h : ∀ r : Reg, r.num = n → t.readReg r = s.readReg r) :
    t.regRead n = s.regRead n := by
  unfold State.regRead
  cases hn : regAt n with
  | none => rfl
  | some r => simp [h r (num_of_regAt hn)]

/-- Two states with the same register contents read the same everywhere. -/
theorem regRead_eq_of_same {s t : State} (hc : ∀ m, t.chan m = s.chan m) (h1 : t.minDelay = s.minDelay)
    (h2 : t.maxDelay = s.maxDelay) (h3 : t.tickQ = s.tickQ) (h4 : t.ctrl = s.ctrl) (h5 : t.status = s.status)
    (h6 : t.ioerrCnt = s.ioerrCnt) (h7 : t.faultCmd = s.faultCmd) (n : BitVec 8) : t.regRead n = s.regRead n := by
  apply regRead_congr
  intro r _
  cases r with
  | rw r => cases r <;> simp [State.readReg, State.readCfg, *]
  | ro r => cases r <;> simp [State.readReg, State.readRo, *]

/-- The configuration registers are the numbers up to 0x0D. -/
theorem num_rw (r : CfgReg) : (Reg.rw r).num.toNat ≤ 0x0D := by
  cases r <;> first | decide | (rename_i m; cases m <;> decide)

/-- The read-only registers are the numbers from 0x10. -/
theorem num_ro (r : RoReg) : 0x10 ≤ (Reg.ro r).num.toNat := by
  cases r <;> first | decide | (rename_i m; cases m <;> decide)

/-- The numbers up to 0x0D name configuration registers, the three of one bit among them (R16, R17). -/
theorem regAt_cfg (n : BitVec 8) (h : n.toNat ≤ 0x0D) :
    ∃ r, regAt n = some (.rw r) ∧ (Reg.rw r).num = n ∧ (r.oneBit = true ↔ n ∈ [0x0B#8, 0x0C#8, 0x0D#8]) := by
  have all : ∀ n : BitVec 8, n.toNat ≤ 0x0D →
      ((regAt n).any fun r => match r with
        | .rw r => (Reg.rw r).num == n && (r.oneBit == decide (n ∈ [0x0B#8, 0x0C#8, 0x0D#8]))
        | .ro _ => false) = true := by decide
  have h1 := all n h
  cases hr : regAt n with
  | none => simp [hr] at h1
  | some r =>
    cases r with
    | ro r => simp [hr] at h1
    | rw r =>
      simp only [hr, Option.any_some, Bool.and_eq_true, beq_iff_eq] at h1
      exact ⟨r, rfl, h1.1, by rw [h1.2, decide_eq_true_iff]⟩

/-- No number above 0x0D names one (R17, R18). -/
theorem cfgRegAt_none (n : BitVec 8) (h : 0x0D < n.toNat) : cfgRegAt n = none := by
  revert n
  decide

/-- The reserved numbers name nothing, and the others something (R18). -/
theorem regAt_eq_none_iff (n : BitVec 8) : regAt n = none ↔ n = 0x0E#8 ∨ n = 0x0F#8 ∨ 0x1B ≤ n.toNat := by
  revert n
  decide

/-- Bits 15:1 of an immediate are 0 when it is at most 1 (R16). -/
theorem upper_bits_zero_iff (v : BitVec 16) : v.extractLsb' 1 15 = 0#15 ↔ v.toNat ≤ 1 := by
  have := v.isLt
  rw [← BitVec.toNat_inj]
  simp only [BitVec.extractLsb'_toNat, BitVec.toNat_ofNat, Nat.shiftRight_eq_div_pow]
  omega

/-- A written register reads as the value that fits it (R16). -/
theorem readCfg_writeCfg (s : State) (r : CfgReg) (v : BitVec 16) (hv : r.oneBit = true → v.toNat ≤ 1) :
    (s.writeCfg r v).readCfg r = v.setWidth 32 := by
  cases r <;> simp [State.writeCfg, State.readCfg]
  all_goals
    have := hv rfl
    apply BitVec.eq_of_toNat_eq
    simp
    omega

/-- Every other register reads as before (43_control.md R121). -/
theorem readReg_writeCfg_of_ne (s : State) (r : CfgReg) (v : BitVec 16) (r' : Reg) (h : r' ≠ .rw r) :
    (s.writeCfg r v).readReg r' = s.readReg r' := by
  cases r' with
  | rw r' =>
    cases r <;> cases r' <;> simp [State.writeCfg, State.readReg, State.readCfg] at h ⊢
    all_goals first | rfl | (split <;> simp_all)
  | ro r' =>
    cases r <;> cases r' <;> simp [State.writeCfg, State.readReg, State.readRo] at h ⊢
    all_goals first | rfl | (split <;> simp_all)

end Sys2Proof.Machine
end

