-- ==== Sys2Proof/Laws/Tick.lean ====
section
/-! SUPPORT. Everything one motor's part of a TICK can do (spec/42_dispatch.md R110), said once. -/

namespace Sys2Proof.Machine

variable {s t : State} {w : Word} {m : Motor}

@[simp] theorem chan_sampleRead (m m' : Motor) : (sampleRead m s).chan m' = s.chan m' := by simp [sampleRead]
@[simp] theorem env_sampleRead (m m' : Motor) :
    (sampleRead m s).env m' = if m' = m then (s.env m).afterSample else s.env m' := by simp [sampleRead]
@[simp] theorem sampleRead_calls :
    (sampleRead m s).calls = s.calls ++ [.sampleRead m (s.sampleAnswer m)] := by simp [sampleRead]
@[simp] theorem sampleRead_status : (sampleRead m s).status = s.status := by simp [sampleRead]
@[simp] theorem sampleRead_minDelay : (sampleRead m s).minDelay = s.minDelay := by simp [sampleRead]
@[simp] theorem sampleRead_maxDelay : (sampleRead m s).maxDelay = s.maxDelay := by simp [sampleRead]
@[simp] theorem sampleRead_tickQ : (sampleRead m s).tickQ = s.tickQ := by simp [sampleRead]
@[simp] theorem sampleRead_ctrl : (sampleRead m s).ctrl = s.ctrl := by simp [sampleRead]
@[simp] theorem sampleRead_ioerrCnt : (sampleRead m s).ioerrCnt = s.ioerrCnt := by simp [sampleRead]
@[simp] theorem sampleRead_faultCmd : (sampleRead m s).faultCmd = s.faultCmd := by simp [sampleRead]
@[simp] theorem sampleRead_result : (sampleRead m s).result = s.result := by simp [sampleRead]
@[simp] theorem sampleRead_rst : (sampleRead m s).rst = s.rst := by simp [sampleRead]
@[simp] theorem sampleRead_host : (sampleRead m s).host = s.host := by simp [sampleRead]

/-- Reading a sample uses up no write answer. -/
@[simp] theorem nextWrite_afterSample (e : MotorEnv) : e.afterSample.nextWrite m = e.nextWrite m := by
  unfold MotorEnv.afterSample MotorEnv.nextWrite
  cases e.samples <;> rfl

/-- Writing a pattern uses up no sample. -/
@[simp] theorem nextSample_afterWrite (e : MotorEnv) (l : Pattern) :
    ({ e.afterWrite with pins := l } : MotorEnv).nextSample m = e.nextSample m := by
  unfold MotorEnv.afterWrite MotorEnv.nextSample
  cases e.writes <;> rfl

/-- The state in which motor `m`'s decoded command is acted on: its sample read, CMD[m] written. -/
def told (m : Motor) (cmd : Command) (s : State) : State := (sampleRead m s).setCmd m cmd

@[simp] theorem chan_told (cmd : Command) (m m' : Motor) :
    (told m cmd s).chan m' = if m' = m then { s.chan m with cmd := cmd } else s.chan m' := by simp [told]
@[simp] theorem env_told (cmd : Command) (m m' : Motor) :
    (told m cmd s).env m' = if m' = m then (s.env m).afterSample else s.env m' := by simp [told]
@[simp] theorem told_calls (cmd : Command) :
    (told m cmd s).calls = s.calls ++ [.sampleRead m (s.sampleAnswer m)] := by simp [told]
@[simp] theorem told_status (cmd : Command) : (told m cmd s).status = s.status := by simp [told]
@[simp] theorem told_minDelay (cmd : Command) : (told m cmd s).minDelay = s.minDelay := by simp [told]
@[simp] theorem told_maxDelay (cmd : Command) : (told m cmd s).maxDelay = s.maxDelay := by simp [told]
@[simp] theorem told_tickQ (cmd : Command) : (told m cmd s).tickQ = s.tickQ := by simp [told]
@[simp] theorem told_ctrl (cmd : Command) : (told m cmd s).ctrl = s.ctrl := by simp [told]
@[simp] theorem told_ioerrCnt (cmd : Command) : (told m cmd s).ioerrCnt = s.ioerrCnt := by simp [told]
@[simp] theorem told_faultCmd (cmd : Command) : (told m cmd s).faultCmd = s.faultCmd := by simp [told]
@[simp] theorem told_result (cmd : Command) : (told m cmd s).result = s.result := by simp [told]
@[simp] theorem told_rst (cmd : Command) : (told m cmd s).rst = s.rst := by simp [told]
@[simp] theorem told_host (cmd : Command) : (told m cmd s).host = s.host := by simp [told]
@[simp] theorem errPolicy_told (cmd : Command) : (told m cmd s).errPolicy = s.errPolicy := by simp [State.errPolicy]
@[simp] theorem errPolicy_sampleRead : (sampleRead m s).errPolicy = s.errPolicy := by simp [State.errPolicy]
@[simp] theorem writeAnswer_told (cmd : Command) : (told m cmd s).writeAnswer m = s.writeAnswer m := by
  simp [State.writeAnswer]
@[simp] theorem index_told (cmd : Command) : (told m cmd s).index m = s.index m := by simp [State.index]
@[simp] theorem len_told (cmd : Command) : (told m cmd s).len m = s.len m := by simp [State.len]
@[simp] theorem entry_told (cmd : Command) (i : Nat) : (told m cmd s).entry m i = s.entry m i := by simp [State.entry]
@[simp] theorem calib_sampleRead (m m' : Motor) : (sampleRead m s).calib m' = s.calib m' := by simp [State.calib]

/-- The ways motor `m`'s part of a TICK goes on or ends, in a running block (R110, 60_exceptions.md R136, R137). -/
inductive TickPart (w : Word) (m : Motor) (s : State) : Flow Unit → Prop where
  | sampleHalts (h : s.sampleAnswer m = .failed) (hp : s.errPolicy = .halt) :
      TickPart w m s (.ended ((sampleRead m s).faulted w .ioSample m))
  | sampleSkipped (h : s.sampleAnswer m = .failed) (hp : s.errPolicy = .skip) :
      TickPart w m s (.cont () (sampleRead m s).errorCounted)
  | outOfRange (x : BitVec 16) (h : s.sampleAnswer m = .ok x) (hd : (s.calib m).decode x = none) :
      TickPart w m s (.ended ((sampleRead m s).faulted w .logicRange m))
  | stops (x : BitVec 16) (h : s.sampleAnswer m = .ok x) (hd : (s.calib m).decode x = some .stop)
      (hw : s.writeAnswer m = .ok) : TickPart w m s (.cont () ((told m .stop s).wrote m 0x0#4 true 0x0#4))
  | stopHalts (x : BitVec 16) (l : Pattern) (h : s.sampleAnswer m = .ok x) (hd : (s.calib m).decode x = some .stop)
      (hw : s.writeAnswer m = .failed l) (hp : s.errPolicy = .halt) :
      TickPart w m s (.ended (((told m .stop s).wrote m 0x0#4 false l).faulted w .ioPin m))
  | stopSkipped (x : BitVec 16) (l : Pattern) (h : s.sampleAnswer m = .ok x)
      (hd : (s.calib m).decode x = some .stop) (hw : s.writeAnswer m = .failed l) (hp : s.errPolicy = .skip) :
      TickPart w m s (.cont () ((told m .stop s).wrote m 0x0#4 false l).errorCounted)
  | waits (x d : BitVec 16) (dir : Dir) (h : s.sampleAnswer m = .ok x)
      (hd : (s.calib m).decode x = some (dir.command d)) (hg : (s.chan m).elapsed.toNat < d.toNat) :
      TickPart w m s (.cont () (told m (dir.command d) s))
  | steps (x d : BitVec 16) (dir : Dir) (h : s.sampleAnswer m = .ok x)
      (hd : (s.calib m).decode x = some (dir.command d)) (hg : d.toNat ≤ (s.chan m).elapsed.toNat)
      (hi : s.index m < s.len m) (hw : s.writeAnswer m = .ok) :
      TickPart w m s (.cont () ((((told m (dir.command d) s).wrote m (s.entry m (s.index m)) true
        (s.entry m (s.index m))).setIdx m (moveIdx dir (s.len m) (s.chan m).idx)).setElapsed m 0#32))
  | stepHalts (x d : BitVec 16) (dir : Dir) (l : Pattern) (h : s.sampleAnswer m = .ok x)
      (hd : (s.calib m).decode x = some (dir.command d)) (hg : d.toNat ≤ (s.chan m).elapsed.toNat)
      (hi : s.index m < s.len m) (hw : s.writeAnswer m = .failed l) (hp : s.errPolicy = .halt) :
      TickPart w m s (.ended (((told m (dir.command d) s).wrote m (s.entry m (s.index m)) false l).faulted w .ioPin m))
  | stepSkipped (x d : BitVec 16) (dir : Dir) (l : Pattern) (h : s.sampleAnswer m = .ok x)
      (hd : (s.calib m).decode x = some (dir.command d)) (hg : d.toNat ≤ (s.chan m).elapsed.toNat)
      (hi : s.index m < s.len m) (hw : s.writeAnswer m = .failed l) (hp : s.errPolicy = .skip) :
      TickPart w m s (.cont () ((told m (dir.command d) s).wrote m (s.entry m (s.index m)) false l).errorCounted)

/-- The gate and the step behind it (R108, R111), acted on in `told m cmd s`. -/
theorem gatedStep_part {x d : BitVec 16} {dir : Dir} {r : Flow Unit} (hr : Running s) (h : s.sampleAnswer m = .ok x)
    (hd : (s.calib m).decode x = some (dir.command d))
    (hk : gatedStep w m dir d (told m (dir.command d) s) = .ok r) : TickPart w m s r := by
  unfold gatedStep at hk
  have hh : (told m (dir.command d) s).status.halted = false := by simpa using hr.1
  split at hk
  · rename_i hg
    have hg' : d.toNat ≤ (s.chan m).elapsed.toNat := by simpa using hg
    by_cases hi : (told m (dir.command d) s).index m < (told m (dir.command d) s).len m
    · rw [seqStep_of_idx dir hi] at hk
      have hi' : s.index m < s.len m := by simpa using hi
      cases hw : s.writeAnswer m with
      | ok =>
        rw [seqStepWith_ok _ _ (by simpa using hw)] at hk
        simp only [thenTry_cont, if_true, Except.ok.injEq] at hk
        subst hk
        simpa using TickPart.steps (w := w) x d dir h hd hg' hi' hw
      | failed l =>
        rw [seqStepWith_failed _ _ l (by simpa using hw)] at hk
        rcases errPolicy_cases s with hp | hp
        · rw [ioError_halt _ (by simpa using hp) (by simpa using hh)] at hk
          simp only [andThen_ended, thenTry_ended, Except.ok.injEq] at hk
          subst hk
          simpa using TickPart.stepHalts (w := w) x d dir l h hd hg' hi' hw hp
        · rw [ioError_skip _ (by simpa using hp)] at hk
          simp only [andThen_cont, thenTry_cont, Bool.false_eq_true, if_false, Except.ok.injEq] at hk
          subst hk
          simpa using TickPart.stepSkipped (w := w) x d dir l h hd hg' hi' hw hp
    · rw [seqStep_of_not_idx dir hi] at hk
      simp at hk
  · rename_i hg
    simp only [Except.ok.injEq] at hk
    subst hk
    exact TickPart.waits x d dir h hd (by simpa using hg)

/-- Motor `m`'s part of a TICK does one of these things, or reads an unpopulated ROM address. -/
theorem tickMotor_part {r : Flow Unit} (hr : Running s) (hk : tickMotor w m s = .ok r) : TickPart w m s r := by
  unfold tickMotor at hk
  have hh : (sampleRead m s).status.halted = false := by simpa using hr.1
  cases h : s.sampleAnswer m with
  | failed =>
    simp only [h, Except.ok.injEq] at hk
    subst hk
    rcases errPolicy_cases s with hp | hp
    · rw [ioError_halt _ (by simpa using hp) hh]
      exact .sampleHalts h hp
    · rw [ioError_skip _ (by simpa using hp)]
      exact .sampleSkipped h hp
  | ok x =>
    simp only [h, decodeAndAct, calib_sampleRead] at hk
    cases hd : (s.calib m).decode x with
    | none =>
      simp only [hd, Except.ok.injEq] at hk
      subst hk
      rw [raise_eq_faulted _ hh]
      exact .outOfRange x h hd
    | some cmd =>
      simp only [hd] at hk
      cases cmd with
      | stop =>
        simp only [actOn, Except.ok.injEq] at hk
        subst hk
        change TickPart w m s (seqStop w m (told m .stop s))
        cases hw : s.writeAnswer m with
        | ok =>
          rw [seqStop_ok (by simpa using hw)]
          exact .stops x h hd hw
        | failed l =>
          rw [seqStop_failed (d := l) (by simpa using hw)]
          rcases errPolicy_cases s with hp | hp
          · rw [ioError_halt _ (by simpa using hp) (by simpa using hh)]
            exact .stopHalts x l h hd hw hp
          · rw [ioError_skip _ (by simpa using hp)]
            exact .stopSkipped x l h hd hw hp
      | forward d => exact gatedStep_part (dir := .fwd) hr h hd hk
      | backward d => exact gatedStep_part (dir := .back) hr h hd hk

/-- A whole TICK in a running block (R110): motor 0's part, then motor 1's unless it ended, then both increments
unless that ended. -/
theorem execTick_cases (hr : Running s) (h : execTick s = .next t) :
    (TickPart (encode .tick) .m0 s (.ended t)) ∨
    (∃ u, TickPart (encode .tick) .m0 s (.cont () u) ∧ tickMotor (encode .tick) .m1 u = .ok (.ended t)) ∨
    (∃ u v, TickPart (encode .tick) .m0 s (.cont () u) ∧ tickMotor (encode .tick) .m1 u = .ok (.cont () v) ∧
      t = advance .m1 (advance .m0 v)) := by
  unfold execTick at h
  rw [inRunPhase_running _ hr] at h
  cases hb : tickBody (encode .tick) s with
  | error f => simp [hb] at h
  | ok r =>
    simp only [hb, settle_ok, Host.Outcome.next.injEq] at h
    rcases thenTry_eq_ok hb with ⟨u, h0, rfl⟩ | ⟨a, u, h0, h1⟩
    · left
      have := tickMotor_part hr h0
      simp only [final_ended] at h
      rwa [h] at this
    · right
      rcases thenTry_eq_ok h1 with ⟨v, h2, rfl⟩ | ⟨b, v, h2, h3⟩
      · left
        simp only [final_ended] at h
        subst h
        exact ⟨u, tickMotor_part hr h0, h2⟩
      · right
        simp only [Except.ok.injEq] at h3
        subst h3
        exact ⟨u, v, tickMotor_part hr h0, h2, by simpa using h.symm⟩

/-! ### Parts that go on, put together -/

/-- A motor whose sample fails has nothing to carry out. -/
theorem canTick_of_failed (h : s.sampleAnswer m = .failed) : CanTick s m := fun x hx => by simp [h] at hx

/-- A motor whose sample decodes, and whose index is in its table unless it is told to stop, can carry it out. -/
theorem canTick_of_sample {x : BitVec 16} {cmd : Command} (h : s.sampleAnswer m = .ok x)
    (hd : (s.calib m).decode x = some cmd) (hi : cmd = .stop ∨ s.index m < s.len m) : CanTick s m := fun y hy => by
  rw [h, SampleAnswer.ok.injEq] at hy
  subst hy
  exact ⟨cmd, hd, hi⟩

/-- Where no unpopulated ROM entry is to be read, motor `m`'s part of a TICK goes on or ends (R110). -/
theorem tickMotor_ok (h : CanTick s m) : ∃ r, tickMotor w m s = .ok r := by
  have gate : ∀ (dir : Dir) (d : BitVec 16) (cmd : Command), s.index m < s.len m →
      ∃ r, gatedStep w m dir d (told m cmd s) = .ok r := by
    intro dir d cmd hi
    unfold gatedStep
    split
    · rw [seqStep_of_idx dir (by simpa using hi)]
      cases seqStepWith w m dir ((told m cmd s).entry m ((told m cmd s).index m)) (told m cmd s)
      · exact ⟨_, rfl⟩
      · exact ⟨_, rfl⟩
    · exact ⟨_, rfl⟩
  unfold tickMotor
  cases hs : s.sampleAnswer m with
  | failed => exact ⟨_, rfl⟩
  | ok x =>
    obtain ⟨cmd, hd, hi⟩ := h x hs
    simp only [decodeAndAct, calib_sampleRead, hd]
    cases cmd with
    | stop => exact ⟨_, rfl⟩
    | forward d => exact gate .fwd d (.forward d) (hi.resolve_left (by simp))
    | backward d => exact gate .back d (.backward d) (hi.resolve_left (by simp))

/-- The whole TICK of two parts that go on. -/
theorem execTick_both {u v : State} (hr : Running s) (h0 : tickMotor (encode .tick) .m0 s = .ok (.cont () u))
    (h1 : tickMotor (encode .tick) .m1 u = .ok (.cont () v)) : execTick s = .next (advance .m1 (advance .m0 v)) := by
  simp [execTick, inRunPhase_running _ hr, tickBody, h0, h1]

/-- The whole TICK of a first part that ends it. -/
theorem execTick_first (hr : Running s) (h0 : tickMotor (encode .tick) .m0 s = .ok (.ended t)) :
    execTick s = .next t := by
  simp [execTick, inRunPhase_running _ hr, tickBody, h0]

/-- The whole TICK of a second part that ends it. -/
theorem execTick_second {u : State} (hr : Running s) (h0 : tickMotor (encode .tick) .m0 s = .ok (.cont () u))
    (h1 : tickMotor (encode .tick) .m1 u = .ok (.ended t)) : execTick s = .next t := by
  simp [execTick, inRunPhase_running _ hr, tickBody, h0, h1]

/-- One motor's part leaves the other motor's registers and surroundings (R118). -/
theorem TickPart.leaves_other {r : Flow Unit} (h : TickPart w m s r) :
    r.final.chan m.other = s.chan m.other ∧ r.final.env m.other = s.env m.other := by
  cases h <;> simp

/-- A part leaves what no part of a TICK writes. -/
theorem TickPart.keeps {r : Flow Unit} (h : TickPart w m s r) :
    r.final.minDelay = s.minDelay ∧ r.final.maxDelay = s.maxDelay ∧ r.final.tickQ = s.tickQ ∧
    r.final.ctrl = s.ctrl ∧ r.final.rst = s.rst ∧ r.final.host = s.host ∧ r.final.result = s.result ∧
    r.final.status.run = s.status.run := by
  cases h <;> simp

/-- A part that goes on leaves the block running. -/
theorem TickPart.running (h : TickPart w m s (.cont () t)) (hr : Running s) : Running t := by
  generalize hx : Flow.cont () t = r at h
  cases h <;> simp only [Flow.cont.injEq, reduceCtorEq, true_and] at hx <;> subst hx <;> simpa [Running] using hr

/-- R136: what an error counted under SKIP does to STATUS. -/
theorem errorCounted_status : s.errorCounted.status = { s.status with ioErr := true } := rfl

/-- R112: a counter nothing was added to. -/
@[simp] theorem countedBy_zero (e : BitVec 32) : countedBy e 0 = e := by
  unfold countedBy
  rw [show min (e.toNat + 0) (2 ^ 32 - 1) = e.toNat by have := e.isLt; omega]
  simp

/-- R112: a counter that starts again. -/
theorem countedBy_of_zero {q : Nat} (h : q < 2 ^ 32) : countedBy 0#32 q = BitVec.ofNat 32 q := by
  unfold countedBy
  rw [show min ((0#32).toNat + q) (2 ^ 32 - 1) = q by simp; omega]

/-- R78: the index a step moves to. -/
theorem moveIdx_eq_nextIndex (dir : Dir) :
    moveIdx dir (s.len m) (s.chan m).idx = BitVec.ofNat 3 (nextIndex dir (s.len m) (s.index m)) := by cases dir <;> rfl

/-- R112: the increment as `countedBy`. -/
theorem satAdd32_eq_countedBy (e : BitVec 32) (q : BitVec 16) : satAdd32 e q = countedBy e q.toNat := rfl

/-- What a part that goes on to `u` has done to its motor by a later state `t` in which only `q` has been added to the
counter, and what it has recorded (R110, R112, 60_exceptions.md R137). -/
theorem TickPart.ticked {u : State} {q : Nat} (h : TickPart w m s (.cont () u)) (hq : q < 2 ^ 32)
    (hc : t.chan m = { u.chan m with elapsed := countedBy (u.chan m).elapsed q }) (he : t.env m = u.env m) :
    ∃ c, u.calls = s.calls ++ c ∧ MotorTicked s t m q c ∧
      u.ioerrCnt.toNat = min (s.ioerrCnt.toNat + c.countP EnvCall.failed) 65535 ∧
      u.status = { s.status with ioErr := s.status.ioErr || c.any EnvCall.failed } ∧ u.faultCmd = s.faultCmd := by
  have hn : s.ioerrCnt.toNat = min s.ioerrCnt.toNat 65535 := by have := s.ioerrCnt.isLt; omega
  generalize hx : Flow.cont () u = r at h
  cases h with
  | sampleHalts => simp at hx
  | outOfRange => simp at hx
  | stopHalts => simp at hx
  | stepHalts => simp at hx
  | sampleSkipped h hp =>
    simp only [Flow.cont.injEq, true_and] at hx
    subst hx
    exact ⟨_, by simp [h], .skipped h (by simpa using hc) (by simpa using he),
      by simp [EnvCall.failed], by simp [EnvCall.failed, errorCounted_status], by simp⟩
  | stops x h hd hw =>
    simp only [Flow.cont.injEq, true_and] at hx
    subst hx
    exact ⟨_, by simp [h], .stopped x h hd hw (by simpa using hc) (by simpa using he),
      by simpa [EnvCall.failed] using hn, by simp [EnvCall.failed], by simp⟩
  | stopSkipped x l h hd hw hp =>
    simp only [Flow.cont.injEq, true_and] at hx
    subst hx
    exact ⟨_, by simp [h], .stopFailed x l h hd hw (by simpa using hc) (by simpa using he),
      by simp [EnvCall.failed], by simp [EnvCall.failed, errorCounted_status], by simp⟩
  | waits x d dir h hd hg =>
    simp only [Flow.cont.injEq, true_and] at hx
    subst hx
    exact ⟨_, by simp [h], .waited x d dir h hd hg (by simpa using hc) (by simpa using he),
      by simpa [EnvCall.failed] using hn, by simp [EnvCall.failed], by simp⟩
  | steps x d dir h hd hg hi hw =>
    simp only [Flow.cont.injEq, true_and] at hx
    subst hx
    exact ⟨_, by simp [h], .stepped x d dir h hd hg hw
        (by simpa [moveIdx_eq_nextIndex, countedBy_of_zero hq] using hc) (by simpa using he),
      by simpa [EnvCall.failed] using hn, by simp [EnvCall.failed], by simp⟩
  | stepSkipped x d dir l h hd hg hi hw hp =>
    simp only [Flow.cont.injEq, true_and] at hx
    subst hx
    exact ⟨_, by simp [h], .stepFailed x d dir l h hd hg hw (by simpa using hc) (by simpa using he),
      by simp [EnvCall.failed], by simp [EnvCall.failed, errorCounted_status], by simp⟩

end Sys2Proof.Machine
end

