-- ==== Sys2Proof/Laws/Exec.lean ====
section
/-! SUPPORT. Everything a command can do, said once: the parts of a stop, a step and START's bring-up, and the ways
any command ends. -/

namespace Sys2Proof.Machine

variable {s t : State} {w : Word} {m : Motor}

/-! ### A stop and a step -/

/-- The ways `SeqStop(m)` goes on or ends in a block that is not halted (40_sequencer.md R79, 60_exceptions.md
R136). -/
inductive StopPart (w : Word) (m : Motor) (s : State) : Flow Unit → Prop where
  | stops (hw : s.writeAnswer m = .ok) : StopPart w m s (.cont () (s.wrote m 0x0#4 true 0x0#4))
  | halts (l : Pattern) (hw : s.writeAnswer m = .failed l) (hp : s.errPolicy = .halt) :
      StopPart w m s (.ended ((s.wrote m 0x0#4 false l).faulted w .ioPin m))
  | skipped (l : Pattern) (hw : s.writeAnswer m = .failed l) (hp : s.errPolicy = .skip) :
      StopPart w m s (.cont () (s.wrote m 0x0#4 false l).errorCounted)

theorem seqStop_part (hh : s.status.halted = false) : StopPart w m s (seqStop w m s) := by
  cases hw : s.writeAnswer m with
  | ok =>
    rw [seqStop_ok hw]
    exact .stops hw
  | failed l =>
    rw [seqStop_failed hw]
    rcases errPolicy_cases s with hp | hp
    · rw [ioError_halt _ (by rw [errPolicy_wrote]; exact hp) (by rw [wrote_status]; exact hh)]
      exact .halts l hw hp
    · rw [ioError_skip _ (by rw [errPolicy_wrote]; exact hp)]
      exact .skipped l hw hp

/-- A stop that goes on leaves the block not halted. -/
theorem StopPart.not_halted {a : Unit} (h : StopPart w m s (.cont a t)) (hh : s.status.halted = false) :
    t.status.halted = false := by
  generalize hr : Flow.cont a t = r at h
  cases h <;> simp at hr <;> subst hr <;> simp [hh]

/-- The ways `SeqStep(m, dir)` goes on or ends in a block that is not halted and whose index is in its table
(40_sequencer.md R80). -/
inductive StepPart (w : Word) (m : Motor) (dir : Dir) (s : State) : Flow Bool → Prop where
  | steps (hw : s.writeAnswer m = .ok) :
      StepPart w m dir s (.cont true ((s.wrote m (s.entry m (s.index m)) true (s.entry m (s.index m))).setIdx m
        (moveIdx dir (s.len m) (s.chan m).idx)))
  | halts (l : Pattern) (hw : s.writeAnswer m = .failed l) (hp : s.errPolicy = .halt) :
      StepPart w m dir s (.ended ((s.wrote m (s.entry m (s.index m)) false l).faulted w .ioPin m))
  | skipped (l : Pattern) (hw : s.writeAnswer m = .failed l) (hp : s.errPolicy = .skip) :
      StepPart w m dir s (.cont false (s.wrote m (s.entry m (s.index m)) false l).errorCounted)

theorem seqStep_part {dir : Dir} {r : Flow Bool} (hh : s.status.halted = false) (h : seqStep w m dir s = .ok r) :
    s.index m < s.len m ∧ StepPart w m dir s r := by
  by_cases hi : s.index m < s.len m
  · refine ⟨hi, ?_⟩
    rw [seqStep_of_idx dir hi, Except.ok.injEq] at h
    subst h
    cases hw : s.writeAnswer m with
    | ok =>
      rw [seqStepWith_ok _ _ hw]
      exact .steps hw
    | failed l =>
      rw [seqStepWith_failed _ _ l hw]
      rcases errPolicy_cases s with hp | hp
      · rw [ioError_halt _ (by rw [errPolicy_wrote]; exact hp) (by rw [wrote_status]; exact hh)]
        exact .halts l hw hp
      · rw [ioError_skip _ (by rw [errPolicy_wrote]; exact hp)]
        exact .skipped l hw hp
  · rw [seqStep_of_not_idx dir hi] at h
    simp at h

/-! ### START's bring-up -/

/-- `s` with RUN set (43_control.md R125). -/
def State.started (s : State) : State := s.setStatus { s.status with run := true }

@[simp] theorem chan_started (m : Motor) : s.started.chan m = s.chan m := by cases m <;> rfl
@[simp] theorem env_started (m : Motor) : s.started.env m = s.env m := by cases m <;> rfl
@[simp] theorem started_calls : s.started.calls = s.calls := rfl

/-- The states START's bring-up ends in (R125, R127): stopped short at motor 0, or gone on to motor 1. -/
inductive BringUp (w : Word) (s : State) : State → Prop where
  | first (t : State) (h : StopPart w .m0 s.started (.ended t)) : BringUp w s t
  | both (u : State) (r : Flow Unit) (h : StopPart w .m0 s.started (.cont () u)) (hu : u.status.halted = false)
      (h' : StopPart w .m1 u r) : BringUp w s r.final

theorem bringUp_cases (hh : s.status.halted = false) : BringUp w s (bringUp w s) := by
  have h0 : StopPart w .m0 s.started (seqStop w .m0 s.started) := seqStop_part hh
  change BringUp w s ((seqStop w .m0 s.started).andThen (fun _ t => seqStop w .m1 t)).final
  cases hx : seqStop w .m0 s.started with
  | ended t =>
    rw [hx] at h0
    exact .first t h0
  | cont a u =>
    rw [hx] at h0
    exact .both u _ h0 (h0.not_halted hh) (seqStop_part (h0.not_halted hh))

/-! ### The ways a command ends -/

/-- A block is halted, in the run phase, or in the configuration phase. -/
theorem phase_cases (s : State) : s.status.halted = true ∨ Running s ∨ Configuring s := by
  unfold Running Configuring
  cases s.status.halted <;> cases s.status.run <;> simp

/-- Every next state of a command. -/
inductive ExecPart (i : Instr) (s : State) : State → Prop where
  | unchanged : ExecPart i s s
  | illegal (hh : s.status.halted = false) : ExecPart i s (s.faulted (encode i) .illegalCmd .m0)
  | reads (r : BitVec 8) (v : Word) (hi : i = .rdreg r) (hv : s.regRead r = some v) : ExecPart i s (s.setResult v)
  | steps (m : Motor) (dir : Dir) (r : Flow Bool) (hr : Running s)
      (hi : i = (match dir with | .fwd => .stepf m | .back => .stepb m)) (hx : s.index m < s.len m)
      (h : StepPart (encode i) m dir s r) : ExecPart i s r.final
  | stops (m : Motor) (r : Flow Unit) (hr : Running s) (hi : i = .stop m) (h : StopPart (encode i) m s r) :
      ExecPart i s r.final
  | decodes (m : Motor) (x : BitVec 16) (cmd : Command) (hr : Running s) (hi : i = .decode m x)
      (hd : (s.calib m).decode x = some cmd) : ExecPart i s (s.setResult cmd.word)
  | outOfRange (m : Motor) (x : BitVec 16) (hr : Running s) (hi : i = .decode m x)
      (hd : (s.calib m).decode x = none) : ExecPart i s (s.faulted (encode i) .logicRange m)
  | ticks (t : State) (hr : Running s) (hi : i = .tick) (h : execTick s = .next t) : ExecPart i s t
  | writes (n : BitVec 8) (v : BitVec 16) (r : CfgReg) (hc : Configuring s) (hi : i = .wrcfg n v)
      (hn : cfgRegAt n = some r) : ExecPart i s (s.writeCfg r v)
  | invalid (hc : Configuring s) (hi : i = .start) (hv : ¬ s.ConfigValid) :
      ExecPart i s (s.faulted (encode i) .cfgInvalid .m0)
  | starts (t : State) (hc : Configuring s) (hi : i = .start) (hv : s.ConfigValid) (h : BringUp (encode i) s t) :
      ExecPart i s t

theorem rdreg_part (r : BitVec 8) (h : execRdreg r s = .next t) : ExecPart (.rdreg r) s t := by
  unfold execRdreg at h
  split at h
  · rename_i v hv
    simp only [Host.Outcome.next.injEq] at h
    subst h
    exact .reads r v rfl hv
  · simp only [Host.Outcome.next.injEq] at h
    subst h
    cases hh : s.status.halted with
    | true =>
      rw [raise_of_halted _ hh]
      exact .unchanged
    | false =>
      rw [raise_eq_faulted _ hh]
      exact .illegal hh

theorem step_part {dir : Dir} {i : Instr} (hr : Running s) (hi : i = (match dir with | .fwd => .stepf m | .back => .stepb m))
    (h : settle (thenTry (seqStep (encode i) m dir s) (fun _ t => .ok (.cont () t))) = .next t) : ExecPart i s t := by
  cases hx : seqStep (encode i) m dir s with
  | error f => simp [hx] at h
  | ok r =>
    obtain ⟨hi', hp⟩ := seqStep_part hr.1 hx
    have : t = r.final := by
      cases r <;> simpa [hx] using h.symm
    subst this
    exact .steps m dir r hr hi hi' hp

theorem wrcfg_part (n : BitVec 8) (v : BitVec 16) (hc : Configuring s) :
    ExecPart (.wrcfg n v) s (writeChecked (encode (.wrcfg n v)) n v s) := by
  unfold writeChecked
  split
  · rw [raise_eq_faulted _ hc.1]
    exact .illegal hc.1
  · rename_i r hr
    split
    · rw [raise_eq_faulted _ hc.1]
      exact .illegal hc.1
    · exact .writes n v r hc rfl hr

/-- Whatever command is performed, it ends in one of these ways. -/
theorem exec_part {i : Instr} (h : exec i s = .next t) : ExecPart i s t := by
  rcases phase_cases s with hh | hr | hc
  · cases i with
    | rdreg r => exact rdreg_part r h
    | nop => cases h; exact .unchanged
    | _ =>
      simp only [exec, execStepf, execStepb, execStop, execDecode, execTick, execWrcfg, execStart,
        inRunPhase_halted _ hh, inConfigPhase_halted _ hh, Host.Outcome.next.injEq] at h
      subst h
      exact .unchanged
  · cases i with
    | rdreg r => exact rdreg_part r h
    | nop => cases h; exact .unchanged
    | tick => exact .ticks t hr rfl h
    | stepf m =>
      simp only [exec, execStepf, inRunPhase_running _ hr] at h
      exact step_part (dir := .fwd) hr rfl h
    | stepb m =>
      simp only [exec, execStepb, inRunPhase_running _ hr] at h
      exact step_part (dir := .back) hr rfl h
    | stop m =>
      simp only [exec, execStop, inRunPhase_running _ hr, settle_ok, Host.Outcome.next.injEq] at h
      subst h
      exact .stops m _ hr rfl (seqStop_part hr.1)
    | decode m x =>
      simp only [exec, execDecode, inRunPhase_running _ hr, settle_ok, Host.Outcome.next.injEq] at h
      subst h
      unfold decodeToResult
      split
      · rename_i cmd hd
        exact .decodes m x cmd hr rfl hd
      · rename_i hd
        rw [raise_eq_faulted _ hr.1]
        exact .outOfRange m x hr rfl hd
    | wrcfg n v =>
      simp only [exec, execWrcfg, inConfigPhase_running _ hr, Host.Outcome.next.injEq] at h
      subst h
      exact .illegal hr.1
    | start =>
      simp only [exec, execStart, inConfigPhase_running _ hr, Host.Outcome.next.injEq] at h
      subst h
      exact .illegal hr.1
  · cases i with
    | rdreg r => exact rdreg_part r h
    | nop => cases h; exact .unchanged
    | wrcfg n v =>
      simp only [exec, execWrcfg, inConfigPhase_configuring _ hc, Host.Outcome.next.injEq] at h
      subst h
      exact wrcfg_part n v hc
    | start =>
      simp only [exec, execStart, inConfigPhase_configuring _ hc, Host.Outcome.next.injEq] at h
      subst h
      split
      · rename_i hv
        exact .starts _ hc rfl hv (bringUp_cases hc.1)
      · rename_i hv
        rw [raise_eq_faulted _ hc.1]
        exact .invalid hc rfl hv
    | _ =>
      simp only [exec, execStepf, execStepb, execStop, execDecode, execTick, inRunPhase_configuring _ hc,
        Host.Outcome.next.injEq] at h
      subst h
      exact .illegal hc.1

end Sys2Proof.Machine
end

