-- ==== Sys2Proof/Laws/PerInstr.lean ====
section
/-! SUPPORT. Statements for all commands, one lemma per constructor. -/

namespace Sys2Proof.Laws.EncodeFields

/-- The fields of a command's word are its own, and `RSV` is 0 (spec/30_encoding.md R62, R63, R72). -/
def Statement (i : Instr) : Prop :=
  opOf (encode i) = i.op ∧ rsvOf (encode i) = 0#3 ∧ mOf (encode i) = i.mField ∧ regOf (encode i) = i.regField ∧
    immOf (encode i) = i.immField

theorem fields_of_packWord (i : Instr) (h : encode i = packWord i.op i.mField i.regField i.immField) : Statement i := by
  rw [Statement, h]
  exact ⟨opOf_packWord _ _ _ _, rsvOf_packWord _ _ _ _, mOf_packWord _ _ _ _, regOf_packWord _ _ _ _,
    immOf_packWord _ _ _ _⟩

theorem nop : Statement .nop := fields_of_packWord _ rfl
theorem stepf (m : Motor) : Statement (.stepf m) := fields_of_packWord _ rfl
theorem stepb (m : Motor) : Statement (.stepb m) := fields_of_packWord _ rfl
theorem stop (m : Motor) : Statement (.stop m) := fields_of_packWord _ rfl
theorem decode (m : Motor) (sample : BitVec 16) : Statement (.decode m sample) := fields_of_packWord _ rfl
theorem tick : Statement .tick := fields_of_packWord _ rfl
theorem wrcfg (reg : BitVec 8) (value : BitVec 16) : Statement (.wrcfg reg value) := fields_of_packWord _ rfl
theorem rdreg (reg : BitVec 8) : Statement (.rdreg reg) := fields_of_packWord _ rfl
theorem start : Statement .start := fields_of_packWord _ rfl

end Sys2Proof.Laws.EncodeFields
end

