-- ==== Sys2Proof/Tests/Slice0.lean ====
section
/-! SUPPORT. The model's own tests: ill-formed source commands, words written out from the spec's encodings, one-step
vectors of spec/95_test_vectors.md, and for each statement with hypotheses a state and operands that meet them. -/

namespace Sys2Proof.Tests

open Sys2Proof.Machine

/-! ### WellFormed: each check refuses an ill-formed command (30_encoding.md R72) -/

theorem test_motor_out_of_range : (SourceCmd.stepf 2).wellFormed = false ∧ assemble (.stepf 2) = none := by decide
theorem test_register_out_of_range : (SourceCmd.rdreg 256).wellFormed = false ∧ assemble (.rdreg 256) = none := by decide
theorem test_value_out_of_range :
    (SourceCmd.wrcfg 0x0A 65536).wellFormed = false ∧ assemble (.wrcfg 0x0A 65536) = none := by decide
theorem test_sample_out_of_range : (SourceCmd.decode 1 65536).wellFormed = false := by decide
theorem test_pseudo_out_of_range :
    (SourceCmd.setdelay 1 65536).wellFormed = false ∧ (SourceCmd.calib 2 0 0 0 0).wellFormed = false := by decide
theorem test_limits_well_formed :
    (SourceCmd.decode 1 65535).wellFormed = true ∧ (SourceCmd.wrcfg 255 65535).wellFormed = true := by decide

/-! ### The assembler (R71, R73) -/

theorem test_pseudo_instructions :
    assembleText ["FULLSTEP 1", "HALFSTEP M0", "POLICY SKIP ; count errors", "SETDELAY 0x5, 20", "", "STOPALL"] =
      some [0x600C0000#32, 0x600B0001#32, 0x600D0001#32, 0x60080005#32, 0x60090014#32, 0x30000000#32,
        0x31000000#32] := by decide
theorem test_calib : assembleText ["CALIB 1, 1650, 30, 1, 2801"] =
    some [0x60040672#32, 0x6005001E#32, 0x60060001#32, 0x60070AF1#32] := by decide
theorem test_malformed_lines :
    readLine "stepf 0".toList = .malformed ∧ assembleText ["STEPF 2"] = none ∧ assembleText ["NOP 1"] = none := by
  decide

/-! ### Words written out from the encodings: OP 4 bits, RSV 3, M 1, REG 8, IMM 16 (R62, R65) -/

theorem test_word_nop : decodeWord 0b0000_000_0_00000000_0000000000000000#32 = .instr .nop := by decide
theorem test_word_stepf : decodeWord 0b0001_000_1_00000000_0000000000000000#32 = .instr (.stepf .m1) := by decide
theorem test_word_stepb : decodeWord 0b0010_000_0_00000000_0000000000000000#32 = .instr (.stepb .m0) := by decide
theorem test_word_stop : decodeWord 0b0011_000_1_00000000_0000000000000000#32 = .instr (.stop .m1) := by decide
theorem test_word_decode :
    decodeWord 0b0100_000_1_00000000_0000011111010000#32 = .instr (.decode .m1 2000#16) := by decide
theorem test_word_tick : decodeWord 0b0101_000_0_00000000_0000000000000000#32 = .instr .tick := by decide
theorem test_word_wrcfg :
    decodeWord 0b0110_000_0_00000010_0000101110111000#32 = .instr (.wrcfg 0x02#8 3000#16) := by decide
theorem test_word_rdreg : decodeWord 0b0111_000_0_00010010_0000000000000000#32 = .instr (.rdreg 0x12#8) := by decide
theorem test_word_start : decodeWord 0b1000_000_0_00000000_0000000000000000#32 = .instr .start := by decide

/-- The illegal words of 95_test_vectors.md, section 2.1. -/
theorem test_illegal_words :
    decodeWord 0x00000001#32 = .illegal .mustBeZero ∧ decodeWord 0x12000000#32 = .illegal .mustBeZero ∧
    decodeWord 0x31000001#32 = .illegal .mustBeZero ∧ decodeWord 0x40010000#32 = .illegal .mustBeZero ∧
    decodeWord 0x51000000#32 = .illegal .mustBeZero ∧ decodeWord 0x61000000#32 = .illegal .mustBeZero ∧
    decodeWord 0x7000FFFF#32 = .illegal .mustBeZero ∧ decodeWord 0x80000001#32 = .illegal .mustBeZero ∧
    decodeWord 0x90000000#32 = .illegal .reservedOp ∧ decodeWord 0xFFFFFFFF#32 = .illegal .reservedOp := by decide

/-- 20_memory.md R53: the byte holding bits 7:0 first. -/
theorem test_bytes : decodeBytes [0x2A#8, 0x03#8, 0x00#8, 0x40#8, 0x77#8] = (.instr (.decode .m0 810#16), [0x77#8]) ∧
    decodeBytes [0x00#8, 0x00#8] = (.illegal .fewerThanFourBytes, [0x00#8, 0x00#8]) := by decide

theorem test_table_word : decodeTableWord 32 0x600A0001 = some (.wrcfg 0x0A#8 1#16) ∧
    decodeTableWord 32 0x90000000 = none := by decide

/-! ### Small states -/

/-- Surroundings that give these samples and write answers. -/
def surroundings (samples : List SampleAnswer) (writes : List WriteAnswer) (pins : Pattern) : MotorEnv :=
  { samples := samples, writes := writes, freeSamples := 0, freeWrites := 0, freePins := 1, pins := pins }

/-- After reset with TICK_Q = 1, every answer listed a success. -/
def configuring : State :=
  { State.reset with
    tickQ := 1#16
    env0 := surroundings [] [.ok, .ok, .ok, .ok] 0x7#4
    env1 := surroundings [] [.ok, .ok, .ok, .ok] 0x7#4 }

/-- In the run phase, both motors at rest, motor 0's index and table as given, with these answers. -/
def running (idx0 : BitVec 3) (mode0 : BitVec 1) (samples0 samples1 : List SampleAnswer)
    (writes0 writes1 : List WriteAnswer) : State :=
  { configuring with
    status := { run := true, halted := false, ioErr := false, cause := .none, faultM := .m0 }
    chan0 := { Channel.reset with idx := idx0, mode := mode0, elapsed := 1#32 }
    chan1 := { Channel.reset with elapsed := 1#32 }
    env0 := surroundings samples0 writes0 0x0#4
    env1 := surroundings samples1 writes1 0x0#4 }

/-- In the run phase, the next eight writes of each motor succeeding. -/
def moving (idx0 : BitVec 3) (mode0 : BitVec 1) : State :=
  running idx0 mode0 [] [] (List.replicate 8 .ok) (List.replicate 8 .ok)

/-- The same under the SKIP policy. -/
def skipping (s : State) : State := { s with ctrl := 1#1 }

/-- Halted by a STEPF before START (95_test_vectors.md, S8). -/
def halted : State := configuring.faulted 0x10000000#32 .illegalCmd .m0

/-- `s` with these items offered by the host. -/
def offering (s : State) (items : List HostInput) : State := s.setHost items

/-- The outcome is a next state with property `p`. -/
def nextHas (o : Host.Outcome State Fault Refusal) (p : State → Bool) : Bool :=
  match o with
  | .next t => p t
  | .fault _ | .refused _ => false

theorem next_of_nextHas {o : Host.Outcome State Fault Refusal} {p : State → Bool} (h : nextHas o p = true) :
    ∃ t, o = .next t ∧ p t = true := by
  cases o with
  | next t => exact ⟨t, rfl, h⟩
  | fault f => cases h
  | refused r => cases h

theorem forall_motor {p : Motor → Prop} (h0 : p .m0) (h1 : p .m1) (m : Motor) : p m := by cases m <;> assumption

/-! ### One step each, expected values from spec/ -/

/-- 95_test_vectors.md K18. -/
theorem test_nop : exec .nop halted = .next halted := rfl

/-- 40_sequencer.md R82, example: writes 0x9, index wraps to 0. -/
theorem test_stepf_wraps : nextHas (exec (.stepf .m0) (moving 7#3 1#1)) (fun t =>
    t.chan0.coil == 0x9#4 && t.chan0.idx == 0#3 && t.env0.pins == 0x9#4 && t.calls == [.outWrite .m0 0x9#4 true]) = true := by
  decide

/-- 95_test_vectors.md S5: the failed write leaves the index and records the fault. -/
theorem test_stepf_failed : nextHas (exec (.stepf .m0) (running 2#3 1#1 [] [] [.failed 0xD#4] [])) (fun t =>
    t.chan0.idx == 2#3 && t.chan0.coil == 0xD#4 && t.statusPort == 0x043#32 && t.faultCmd == 0x10000000#32) = true := by
  decide

/-- 40_sequencer.md R84, example: writes 0x1, index wraps to 7. -/
theorem test_stepb_wraps : nextHas (exec (.stepb .m0) (moving 0#3 1#1)) (fun t =>
    t.chan0.coil == 0x1#4 && t.chan0.idx == 7#3) = true := by decide

/-- 95_test_vectors.md, section 2.2, 4-entry table: STEPB from index 0 writes 0xA, index 3. -/
theorem test_stepb_full_step : nextHas (exec (.stepb .m0) (moving 0#3 0#1)) (fun t =>
    t.chan0.coil == 0xA#4 && t.chan0.idx == 3#3) = true := by decide

/-- 40_sequencer.md R86: the coils go low and the index stays. -/
theorem test_stop : nextHas (exec (.stop .m0) (moving 3#3 1#1)) (fun t =>
    t.chan0.coil == 0x0#4 && t.chan0.idx == 3#3) = true := by decide

/-- 95_test_vectors.md S7: the error count saturates. -/
theorem test_stop_saturates : nextHas
    (exec (.stop .m1) { skipping (running 0#3 1#1 [] [] [] [.failed 0x6#4]) with ioerrCnt := 65535#16 }) (fun t =>
      t.ioerrCnt == 65535#16 && t.chan1.coil == 0x6#4 && t.chan1.idx == 0#3 && t.statusPort == 0x005#32) = true := by
  decide

/-- 95_test_vectors.md, section 2.3. -/
theorem test_decode_forward : nextHas (exec (.decode .m0 810#16) (moving 0#3 1#1)) (fun t =>
    t.result == 0x0001000A#32) = true := by decide

/-- 95_test_vectors.md, section 2.3: the first Backward sample. -/
theorem test_decode_backward : nextHas (exec (.decode .m0 1671#16) (moving 0#3 1#1)) (fun t =>
    t.result == 0x00020011#32) = true := by decide

/-- 42_dispatch.md R110, example, with motor 1 told to stop. -/
theorem test_tick_steps : nextHas (exec .tick (running 0#3 1#1 [.ok 0#16] [.ok 1620#16] [.ok] [.ok])) (fun t =>
    t.chan0.idx == 1#3 && t.chan0.coil == 0x1#4 && t.chan0.elapsed == 1#32 && t.chan0.cmd == .forward 1#16 &&
      t.chan1.elapsed == 2#32 && t.chan1.cmd == .stop) = true := by decide

/-- 95_test_vectors.md X3: motor 1's write fails under HALT. -/
theorem test_tick_faults : nextHas (exec .tick (running 0#3 1#1 [.ok 0#16] [.ok 0#16] [.ok] [.failed 0xF#4])) (fun t =>
    t.chan0.idx == 1#3 && t.chan0.elapsed == 0#32 && t.chan1.idx == 0#3 && t.chan1.coil == 0xF#4 &&
      t.chan1.elapsed == 1#32 && t.statusPort == 0x143#32 && t.faultCmd == 0x50000000#32) = true := by decide

/-- 95_test_vectors.md K1. -/
theorem test_wrcfg : nextHas (exec (.wrcfg 0x00#8 1650#16) configuring) (fun t =>
    t.chan0.calCenter == 1650#16 && t.statusPort == 0x000#32) = true := by decide

/-- 95_test_vectors.md K4. -/
theorem test_wrcfg_one_bit : nextHas (exec (.wrcfg 0x0B#8 2#16) configuring) (fun t =>
    t.statusPort == 0x012#32 && t.faultCmd == 0x600B0002#32 && t.chan0.mode == 1#1) = true := by decide

/-- 95_test_vectors.md K2. -/
theorem test_rdreg : nextHas (exec (.rdreg 0x03#8) configuring) (fun t => t.result == 0x00000821#32) = true := by decide

/-- 95_test_vectors.md H1: STATUS is read while halted. -/
theorem test_rdreg_halted : nextHas (exec (.rdreg 0x10#8) halted) (fun t => t.result == 0x00000012#32) = true := by
  decide

/-- 95_test_vectors.md K8. -/
theorem test_start : nextHas (exec .start configuring) (fun t =>
    t.statusPort == 0x001#32 && t.calls == [.outWrite .m0 0x0#4 true, .outWrite .m1 0x0#4 true]) = true := by decide

/-- 95_test_vectors.md K14: `c = hi` on motor 1. -/
theorem test_start_invalid : nextHas
    (exec .start { configuring with chan1 := { Channel.reset with calCenter := 2081#16 } }) (fun t =>
      t.statusPort == 0x022#32 && t.calls == []) = true := by decide

/-- A word placed by `withFetchWord` is what the first step after reset performs. -/
theorem test_fetch_word : nextHas (step (State.reset.withFetchWord 32 0x10000000)) (fun t =>
    t.statusPort == 0x012#32 && t.faultCmd == 0x10000000#32) = true := by decide

/-- 95_test_vectors.md H6. -/
theorem test_reset : nextHas (step (offering halted [.rst true])) (fun t =>
    t.statusPort == 0x000#32 && t.faultCmd == 0#32 && t.rst) = true := by decide

/-! ### Witnesses: for each statement with hypotheses, a state and operands that meet them, clause by clause -/

theorem running_moving (i : BitVec 3) (b : BitVec 1) : Running (moving i b) := ⟨rfl, rfl⟩

theorem witness_EncodeOfDecode : decodeWord 0x31000000#32 = .instr (.stop .m1) := by decide

/-- One illegal word for each way to be one, at its boundary, and a block that is not halted. -/
theorem witness_IllegalWordsExactly :
    (9 ≤ (opOf 0x90000000#32).toNat ∧ 9 ≤ (opOf 0xF0000000#32).toNat ∧ rsvOf 0x12000000#32 ≠ 0#3 ∧
      mOf 0x51000000#32 ≠ 0#1 ∧ regOf 0x40010000#32 ≠ 0#8 ∧ immOf 0x00000001#32 ≠ 0#16) ∧
    decodeWord 0x90000000#32 = .illegal .reservedOp ∧ configuring.status.halted = false := by decide

theorem witness_NoWordMatchesTwoRows :
    ⟨.STOP, 0xFEFFFFFF#32, 0x30000000#32⟩ ∈ opTable ∧
    OpRow.hits ⟨.STOP, 0xFEFFFFFF#32, 0x30000000#32⟩ 0x31000000#32 = true := by decide

theorem witness_StepPerformsTheDecodedCommand :
    (offering configuring [.command 0x80000000#32]).rst = false ∧
    (offering configuring [.command 0x80000000#32]).host = .command 0x80000000#32 :: [] ∧
    decodeWord 0x80000000#32 = .instr .start := ⟨rfl, rfl, by decide⟩

theorem witness_StepRefusesIllegalWords :
    (offering configuring [.command 0x90000000#32]).host = .command 0x90000000#32 :: [] ∧
    (offering configuring [.command 0x90000000#32]).rst = false ∧ configuring.status.halted = false ∧
    (offering halted [.command 0x90000000#32]).host = .command 0x90000000#32 :: [] ∧
    (offering halted [.command 0x90000000#32]).rst = false ∧ halted.status.halted = true ∧
    decodeWord 0x90000000#32 = .illegal .reservedOp := ⟨rfl, rfl, rfl, rfl, rfl, rfl, by decide⟩

theorem witness_IdleBlockHoldsItsState : State.reset.host = [] := rfl

theorem witness_AssertingResetResetsEveryRegister :
    (offering halted [.rst true]).host = .rst true :: [] ∧
    (offering { halted with rst := true } [.rst false]).host = .rst false :: [] ∧
    (offering { halted with rst := true } [.rst false]).rst = true := ⟨rfl, rfl, rfl⟩

/-- A START cut after no call, after its first, and after both. -/
theorem witness_AbandonedCommandMadeItsFirstCalls :
    (∀ k, (offering configuring [.commandCut 0x80000000#32 k]).host = .commandCut 0x80000000#32 k :: []) ∧
    (offering configuring []).rst = false ∧
    ∃ t, performWord 0x80000000#32 (offering configuring []) = .next t ∧ decide (t.calls.length = 2) = true :=
  ⟨fun _ => rfl, rfl,
    next_of_nextHas (o := performWord 0x80000000#32 (offering configuring []))
      (p := fun t => decide (t.calls.length = 2)) (by decide)⟩

theorem witness_PhaseCheck :
    (configuring.status.halted = false ∧ configuring.status.run = false) ∧
    ((moving 0#3 1#1).status.halted = false ∧ (moving 0#3 1#1).status.run = true) ∧
    configuring.regRead 0x00#8 = some 1620#32 ∧ configuring.regRead 0x1A#8 = some 0#32 := by decide

theorem witness_HaltedBlockIgnoresCommands :
    halted.rst = false ∧ halted.status.halted = true ∧
    (decodeWord 0x701A0000#32 = .instr (.rdreg 0x1A#8) ∧ halted.regRead 0x1A#8 = some 0x10000000#32) ∧
    (decodeWord 0x700E0000#32 = .instr (.rdreg 0x0E#8) ∧ halted.regRead 0x0E#8 = none) ∧
    decodeWord 0x50000000#32 = .instr .tick ∧
    (offering halted [.command 0x50000000#32]).host = .command 0x50000000#32 :: [] := by decide

theorem witness_OnlyResetLeavesHalted :
    (offering halted [.command 0x50000000#32]).status.halted = true ∧
    NoReset (offering halted [.command 0x50000000#32]) ∧
    ∃ t, step (offering halted [.command 0x50000000#32]) = .next t :=
  ⟨rfl, fun x rest h => by cases h; rfl, _, rfl⟩

/-- START sets RUN; a failed write under SKIP sets IO_ERR. -/
theorem witness_FlagWriters :
    nextHas (exec .start configuring) (fun t => t.status.run && !configuring.status.run) = true ∧
    nextHas (exec (.stop .m0) (skipping (running 0#3 1#1 [] [] [.failed 0x3#4] []))) (fun t => t.status.ioErr) = true := by
  decide

theorem witness_FaultKeepsCommandWordAndResult :
    nextHas (exec .tick configuring) (fun t => t.status.halted && t.status.cause == .illegalCmd) = true ∧
    nextHas (exec .start { configuring with tickQ := 0#16 }) (fun t => t.status.cause == .cfgInvalid) = true ∧
    nextHas (exec .tick (running 0#3 1#1 [.failed] [] [] [])) (fun t => t.status.cause == .ioSample) = true ∧
    configuring.status.halted = false ∧ (running 0#3 1#1 [.failed] [] [] []).status.halted = false := by decide

theorem witness_ResultWriters :
    nextHas (exec (.decode .m0 0#16) (moving 0#3 1#1)) (fun t => t.result != (moving 0#3 1#1).result) = true := by
  decide

theorem witness_SequencerAndCounterWriters :
    nextHas (exec (.stepf .m1) (moving 0#3 1#1)) (fun t => t.chan1.idx != (moving 0#3 1#1).chan1.idx) = true ∧
    nextHas (exec .tick (running 0#3 1#1 [.ok 0#16] [.ok 0#16] [.ok] [.ok])) (fun t =>
      t.chan1.cmd != .stop && t.chan1.elapsed == 1#32) = true := by decide

/-- The last index of each table. -/
theorem witness_StepfWritesThenMovesForward :
    (Running (moving 7#3 1#1) ∧ (moving 7#3 1#1).index .m0 < (moving 7#3 1#1).len .m0 ∧
      (moving 7#3 1#1).writeAnswer .m0 = .ok) ∧
    (Running (moving 3#3 0#1) ∧ (moving 3#3 0#1).index .m0 < (moving 3#3 0#1).len .m0 ∧
      (moving 3#3 0#1).writeAnswer .m0 = .ok) := by decide

/-- The first index of each table. -/
theorem witness_StepbWritesThenMovesBack :
    (Running (moving 0#3 1#1) ∧ (moving 0#3 1#1).index .m0 < (moving 0#3 1#1).len .m0 ∧
      (moving 0#3 1#1).writeAnswer .m0 = .ok) ∧
    (Running (moving 0#3 0#1) ∧ (moving 0#3 0#1).index .m0 < (moving 0#3 0#1).len .m0 ∧
      (moving 0#3 0#1).writeAnswer .m0 = .ok) := by decide

theorem witness_StopForcesCoilsLow :
    Running (moving 3#3 1#1) ∧ (moving 3#3 1#1).writeAnswer .m0 = .ok ∧ (moving 3#3 1#1).writeAnswer .m1 = .ok := by
  decide

/-- A HALT block in which motor 0 steps from its last index and motor 1, with sample `y`, fails to be written. -/
def secondFails (y : BitVec 16) : State := running 7#3 1#1 [.ok 0#16] [.ok y] [.ok] [.failed 0xF#4]

/-- A failing write under each policy, the index in its table; in a TICK under HALT, a stop and a step of motor 0, and
after motor 0's part a stop and a step of motor 1. -/
theorem witness_FailedPatternWrite :
    (Running (running 7#3 1#1 [] [] [.failed 0xF#4] []) ∧
      (running 7#3 1#1 [] [] [.failed 0xF#4] []).writeAnswer .m0 = .failed 0xF#4 ∧
      (running 7#3 1#1 [] [] [.failed 0xF#4] []).index .m0 < (running 7#3 1#1 [] [] [.failed 0xF#4] []).len .m0 ∧
      (running 7#3 1#1 [] [] [.failed 0xF#4] []).errPolicy = .halt) ∧
    (skipping (running 7#3 1#1 [] [] [.failed 0xF#4] [])).errPolicy = .skip ∧
    (∀ x : BitVec 16, (running 7#3 1#1 [.ok x] [] [.failed 0xF#4] []).sampleAnswer .m0 = .ok x ∧
      Running (running 7#3 1#1 [.ok x] [] [.failed 0xF#4] [])) ∧
    ((running 7#3 1#1 [] [] [] []).calib .m0).decode 1620#16 = some .stop ∧
    (((running 7#3 1#1 [] [] [] []).calib .m0).decode 0#16 = some (Dir.fwd.command 1#16) ∧
      (1#16).toNat ≤ ((running 7#3 1#1 [] [] [] []).chan .m0).elapsed.toNat) ∧
    (∀ y : BitVec 16, (secondFails y).writeAnswer .m1 = .failed 0xF#4 ∧ (secondFails y).sampleAnswer .m1 = .ok y ∧
      Running (secondFails y) ∧ (secondFails y).errPolicy = .halt ∧ CanTick (secondFails y) .m0 ∧
      CallsSucceed (secondFails y) .m0 0#16) ∧
    ((secondFails 1620#16).calib .m1).decode 1620#16 = some .stop ∧
    (((secondFails 2081#16).calib .m1).decode 2081#16 = some (Dir.back.command 1#16) ∧
      (1#16).toNat ≤ ((secondFails 2081#16).chan .m1).elapsed.toNat ∧
      (secondFails 2081#16).index .m1 < (secondFails 2081#16).len .m1) :=
  ⟨by decide, by decide, fun _ => ⟨rfl, rfl, rfl⟩, by decide, by decide,
    fun _ => ⟨rfl, rfl, ⟨rfl, rfl⟩, rfl,
      canTick_of_sample (x := 0#16) (cmd := Dir.fwd.command 1#16) rfl
        (by decide : ((secondFails 0#16).calib .m0).decode 0#16 = some (Dir.fwd.command 1#16))
        (.inr (by decide : (secondFails 0#16).index .m0 < (secondFails 0#16).len .m0)), rfl, .inl rfl⟩,
    by decide, by decide⟩

theorem witness_SequencerCommandFrame :
    Running (moving 0#3 1#1) ∧ (moving 0#3 1#1).writeAnswer .m0 = .ok ∧
    nextHas (exec (.stepf .m0) (moving 0#3 1#1)) (fun _ => true) = true ∧
    nextHas (exec (.stepb .m0) (moving 0#3 1#1)) (fun _ => true) = true ∧
    nextHas (exec (.stop .m0) (moving 0#3 1#1)) (fun _ => true) = true ∧
    0x16#8 ≠ numOf 0x12 .m0 ∧ 0x16#8 ≠ numOf 0x14 .m0 ∧ 0x16#8 ∉ [0x10#8, 0x11#8, 0x1A#8] := by decide

theorem witness_CyclicClosure :
    (Running (moving 7#3 1#1) ∧ (moving 7#3 1#1).index .m0 < (moving 7#3 1#1).len .m0 ∧
      ((moving 7#3 1#1).env .m0).writes = List.replicate ((moving 7#3 1#1).len .m0) .ok ++ []) ∧
    (Running (moving 3#3 0#1) ∧ (moving 3#3 0#1).index .m0 < (moving 3#3 0#1).len .m0 ∧
      ((moving 3#3 0#1).env .m0).writes = List.replicate ((moving 3#3 0#1).len .m0) .ok ++ List.replicate 4 .ok) := by
  decide

theorem witness_InverseSteps :
    Running (moving 7#3 1#1) ∧ (moving 7#3 1#1).index .m0 < (moving 7#3 1#1).len .m0 ∧
    ((moving 7#3 1#1).env .m0).writes = .ok :: .ok :: List.replicate 6 .ok := by decide

theorem witness_ReversalWritesOneMorePhase :
    Running (moving 4#3 1#1) ∧ (moving 4#3 1#1).index .m0 < (moving 4#3 1#1).len .m0 ∧
    ((moving 4#3 1#1).env .m0).writes = .ok :: .ok :: .ok :: List.replicate 5 .ok := by decide

theorem witness_StopIsIdempotent :
    Running (moving 3#3 1#1) ∧ ((moving 3#3 1#1).env .m0).writes = .ok :: .ok :: List.replicate 6 .ok := by decide

theorem witness_CoilLagsTheIndex :
    Running (moving 7#3 1#1) ∧ (moving 7#3 1#1).index .m0 < (moving 7#3 1#1).len .m0 ∧
    (moving 7#3 1#1).writeAnswer .m0 = .ok ∧ nextHas (exec (.stepf .m0) (moving 7#3 1#1)) (fun _ => true) = true ∧
    nextHas (exec (.stepb .m0) (moving 7#3 1#1)) (fun _ => true) = true := by decide

theorem witness_SuccessiveStepsWriteDifferentPatterns :
    Running (moving 7#3 1#1) ∧ (moving 7#3 1#1).index .m0 < (moving 7#3 1#1).len .m0 ∧
    (moving 7#3 1#1).writeAnswer .m0 = .ok ∧
    nextHas (exec (.stepf .m0) (moving 7#3 1#1)) (fun t =>
      decide (t.writeAnswer .m0 = .ok) && nextHas (exec (.stepb .m0) t) (fun _ => true)) = true := by decide

theorem witness_DecodePutsCommandInResult :
    Running (moving 0#3 1#1) ∧ ((moving 0#3 1#1).chan .m0).calMin.toNat ≤ ((moving 0#3 1#1).chan .m0).calMax.toNat := by
  decide

/-- Bounds the wrong way round: no run reaches this state. -/
theorem witness_DecodeRecordsLogicRange :
    Running { moving 0#3 1#1 with chan0 := { Channel.reset with calMin := 2082#16 } } ∧
    (State.chan { moving 0#3 1#1 with chan0 := { Channel.reset with calMin := 2082#16 } } .m0).calMax.toNat <
      (State.chan { moving 0#3 1#1 with chan0 := { Channel.reset with calMin := 2082#16 } } .m0).calMin.toNat := by
  decide

/-- The reset calibration, and a constant delay (95_test_vectors.md E4). -/
theorem witness_DecodedDelayInRange :
    ((configuring.calib .m0).Valid ∧ (configuring.calib .m0).decode 1569#16 = some (.forward 19#16) ∧
      (configuring.calib .m0).dmin < (configuring.calib .m0).dmax) ∧
    ({ configuring.calib .m0 with dmin := 5, dmax := 5 : Calib }.Valid ∧
      { configuring.calib .m0 with dmin := 5, dmax := 5 : Calib }.decode 2081#16 = some (.backward 5#16)) := by decide

/-- The bounds themselves, with a narrow dead zone and with one that reaches both (95_test_vectors.md E6). -/
theorem witness_DecoderEndpoints :
    ((configuring.calib .m0).Valid ∧ zOf 0#16 ≤ (configuring.calib .m0).lo ∧
      (configuring.calib .m0).hi ≤ zOf 2081#16) ∧
    ({ configuring.calib .m0 with t := 2000 : Calib }.Valid ∧
      { configuring.calib .m0 with t := 2000 : Calib }.c - 2000 ≤ { configuring.calib .m0 with t := 2000 : Calib }.lo) := by
  decide

theorem witness_DecoderMonotone :
    (configuring.calib .m0).Valid ∧
    (zOf 0#16 ≤ zOf 1569#16 ∧ (configuring.calib .m0).lo ≤ zOf 0#16 ∧
      zOf 1569#16 < (configuring.calib .m0).c - (configuring.calib .m0).t) ∧
    (zOf 1671#16 ≤ zOf 2081#16 ∧ (configuring.calib .m0).c + (configuring.calib .m0).t < zOf 1671#16 ∧
      zOf 2081#16 ≤ (configuring.calib .m0).hi) := by decide

theorem witness_DegenerateDeadZone :
    ({ configuring.calib .m0 with t := 1620 : Calib }.Valid ∧
      { configuring.calib .m0 with t := 1620 : Calib }.c - 1620 ≤ { configuring.calib .m0 with t := 1620 : Calib }.lo ∧
      { configuring.calib .m0 with t := 1620 : Calib }.hi ≤ { configuring.calib .m0 with t := 1620 : Calib }.c + 1620) ∧
    configuring.ConfigValid := by decide

/-- Motor 0 steps with ELAPSED at its delay and motor 1 is told to stop; and motor 0 waits, one quantum short of its
delay, its next write's answer a failure that is not asked for. -/
theorem witness_TickWithAllCallsSucceeding :
    (Running (running 0#3 1#1 [.ok 0#16] [.ok 1620#16] [.ok] [.ok]) ∧
      (running 0#3 1#1 [.ok 0#16] [.ok 1620#16] [.ok] [.ok]).ConfigValid ∧
      IdxInTable (running 0#3 1#1 [.ok 0#16] [.ok 1620#16] [.ok] [.ok]) ∧
      (∀ m, CallsSucceed (running 0#3 1#1 [.ok 0#16] [.ok 1620#16] [.ok] [.ok]) m
        (match m with | .m0 => 0#16 | .m1 => 1620#16))) ∧
    CallsSucceed (running 0#3 1#1 [.ok 86#16] [] [.failed 0x3#4] []) .m0 86#16 :=
  ⟨⟨by decide, by decide, forall_motor (by decide) (by decide),
      forall_motor ⟨rfl, .inl rfl⟩ ⟨rfl, .inl rfl⟩⟩,
    rfl, .inr ⟨.fwd, 2#16, by decide, by decide⟩⟩

theorem witness_TickFrame :
    Running (running 0#3 1#1 [.ok 0#16] [.ok 0#16] [.ok] [.ok]) ∧
    (running 0#3 1#1 [.ok 0#16] [.ok 0#16] [.ok] [.ok]).errPolicy = .halt ∧
    nextHas (exec .tick (running 0#3 1#1 [.ok 0#16] [.ok 0#16] [.ok] [.ok])) (fun t => !t.status.halted) = true := by
  decide

/-- Saturation (95_test_vectors.md T6): the counter one below its top. -/
theorem witness_CountersAdvanceEveryTick :
    Running { running 0#3 1#1 [.ok 1620#16] [.ok 0#16] [.ok] [.ok] with
      chan0 := { Channel.reset with elapsed := 0xFFFFFFFE#32 } } ∧
    nextHas (exec .tick { running 0#3 1#1 [.ok 1620#16] [.ok 0#16] [.ok] [.ok] with
      chan0 := { Channel.reset with elapsed := 0xFFFFFFFE#32 } }) (fun t =>
        !t.status.halted && t.chan0.elapsed == 0xFFFFFFFF#32) = true := by decide

theorem witness_TickCallsInMotorOrder :
    Running (running 0#3 1#1 [.ok 0#16] [.ok 0#16] [.ok] [.ok]) ∧
    nextHas (exec .tick (running 0#3 1#1 [.ok 0#16] [.ok 0#16] [.ok] [.ok])) (fun t => t.calls.length == 4) = true := by
  decide

theorem witness_TickFirstSampleFailsUnderHalt :
    Running (running 0#3 1#1 [.failed] [] [] []) ∧ (running 0#3 1#1 [.failed] [] [] []).errPolicy = .halt ∧
    (running 0#3 1#1 [.failed] [] [] []).sampleAnswer .m0 = .failed := by decide

/-- Motor 0 steps from its last index. -/
theorem witness_TickSecondSampleFailsUnderHalt :
    Running (running 7#3 1#1 [.ok 0#16] [.failed] [.ok] []) ∧
    (running 7#3 1#1 [.ok 0#16] [.failed] [.ok] []).errPolicy = .halt ∧
    CanTick (running 7#3 1#1 [.ok 0#16] [.failed] [.ok] []) .m0 ∧
    CallsSucceed (running 7#3 1#1 [.ok 0#16] [.failed] [.ok] []) .m0 0#16 ∧
    (running 7#3 1#1 [.ok 0#16] [.failed] [.ok] []).sampleAnswer .m1 = .failed ∧
    ((running 7#3 1#1 [.ok 0#16] [.failed] [.ok] []).calib .m0).decode 0#16 = some (Dir.fwd.command 1#16) ∧
    (1#16).toNat ≤ ((running 7#3 1#1 [.ok 0#16] [.failed] [.ok] []).chan .m0).elapsed.toNat :=
  ⟨by decide, by decide,
    canTick_of_sample (x := 0#16) (cmd := Dir.fwd.command 1#16) rfl (by decide) (.inr (by decide)), ⟨rfl, .inl rfl⟩,
    rfl, by decide, by decide⟩

/-- Motor 0's sample fails and motor 1 is told to stop; motor 1's fails and motor 0 steps; both fail. -/
theorem witness_TickSkipsAFailedSample :
    (Running (skipping (running 0#3 1#1 [.failed] [.ok 1620#16] [] [.ok])) ∧
      (skipping (running 0#3 1#1 [.failed] [.ok 1620#16] [] [.ok])).errPolicy = .skip ∧
      (skipping (running 0#3 1#1 [.failed] [.ok 1620#16] [] [.ok])).sampleAnswer .m0 = .failed ∧
      CanTick (skipping (running 0#3 1#1 [.failed] [.ok 1620#16] [] [.ok])) .m1) ∧
    ((skipping (running 7#3 1#1 [.ok 0#16] [.failed] [.ok] [])).sampleAnswer .m1 = .failed ∧
      CanTick (skipping (running 7#3 1#1 [.ok 0#16] [.failed] [.ok] [])) .m0) ∧
    ((skipping (running 0#3 1#1 [.failed] [.failed] [] [])).sampleAnswer .m0 = .failed ∧
      CanTick (skipping (running 0#3 1#1 [.failed] [.failed] [] [])) .m1) :=
  ⟨⟨by decide, by decide, rfl, canTick_of_sample (x := 1620#16) (cmd := .stop) rfl (by decide) (.inl rfl)⟩,
    ⟨rfl, canTick_of_sample (x := 0#16) (cmd := Dir.fwd.command 1#16) rfl (by decide) (.inr (by decide))⟩,
    ⟨rfl, canTick_of_failed rfl⟩⟩

/-- A SKIP block in which the write of motor 0's stop and that of motor 1's step fail. -/
def retrying : State := skipping (running 0#3 1#1 [.ok 1620#16] [.ok 2081#16] [.failed 0x7#4] [.failed 0xE#4])

theorem witness_TickRetriesAFailedStep :
    (Running retrying ∧ retrying.errPolicy = .skip) ∧
    (retrying.sampleAnswer .m1 = .ok 2081#16 ∧ retrying.writeAnswer .m1 = .failed 0xE#4 ∧ CanTick retrying .m0 ∧
      (retrying.calib .m1).decode 2081#16 = some (Dir.back.command 1#16) ∧
      (1#16).toNat ≤ (retrying.chan .m1).elapsed.toNat ∧ retrying.index .m1 < retrying.len .m1) ∧
    (retrying.sampleAnswer .m0 = .ok 1620#16 ∧ retrying.writeAnswer .m0 = .failed 0x7#4 ∧ CanTick retrying .m1 ∧
      (retrying.calib .m0).decode 1620#16 = some .stop) :=
  ⟨by decide,
    ⟨rfl, rfl, canTick_of_sample (x := 1620#16) (cmd := .stop) rfl (by decide) (.inl rfl), by decide, by decide,
      by decide⟩,
    ⟨rfl, rfl, canTick_of_sample (x := 2081#16) (cmd := Dir.back.command 1#16) rfl (by decide) (.inr (by decide)),
      by decide⟩⟩

/-- Two blocks that agree on motor 1 and differ in motor 0's sample, index and policy. -/
theorem witness_MotorsAreIndependent :
    Running (running 0#3 1#1 [.ok 0#16] [.ok 0#16] [.ok] [.ok]) ∧
    Running (skipping (running 3#3 0#1 [.failed] [.ok 0#16] [] [.ok])) ∧
    (running 0#3 1#1 [.ok 0#16] [.ok 0#16] [.ok] [.ok]).chan .m1 =
      (skipping (running 3#3 0#1 [.failed] [.ok 0#16] [] [.ok])).chan .m1 ∧
    (running 0#3 1#1 [.ok 0#16] [.ok 0#16] [.ok] [.ok]).env .m1 =
      (skipping (running 3#3 0#1 [.failed] [.ok 0#16] [] [.ok])).env .m1 ∧
    nextHas (exec .tick (running 0#3 1#1 [.ok 0#16] [.ok 0#16] [.ok] [.ok])) (fun t => !t.status.halted) = true ∧
    nextHas (exec .tick (skipping (running 3#3 0#1 [.failed] [.ok 0#16] [] [.ok]))) (fun t => !t.status.halted) = true := by
  decide

/-- TICK_Q = 5 and a constant `Backward{3}` on motor 0 (95_test_vectors.md T3): no step at tick 1, a step at tick 2. -/
def ticking : Nat → State
  | 0 => { running 0#3 1#1 [.ok 2020#16, .ok 2020#16] [.ok 1620#16, .ok 1620#16] [.ok, .ok] [.ok, .ok] with
      tickQ := 5#16, chan0 := Channel.reset }
  | k + 1 => match exec .tick (ticking k) with
    | .next t => t
    | .fault _ | .refused _ => ticking k

theorem ticking_tick (k : Nat) (h : nextHas (exec .tick (ticking k)) (fun _ => true) = true) :
    exec .tick (ticking k) = .next (ticking (k + 1)) := by
  obtain ⟨t, ht, -⟩ := next_of_nextHas h
  rw [ticking, ht]

theorem witness_StepPeriod :
    (∀ k, k < 2 → exec .tick (ticking k) = .next (ticking (k + 1))) ∧ (∀ k, k ≤ 2 → Running (ticking k)) ∧
    (∀ k, k < 2 → (ticking k).writeAnswer .m0 = .ok ∧ ∃ x, (ticking k).sampleAnswer .m0 = .ok x ∧
      ((ticking k).calib .m0).decode x = some (Dir.back.command 3#16)) ∧
    1 ≤ (ticking 0).tickQ.toNat := by
  refine ⟨fun k h => ?_, fun k h => ?_, fun k h => ?_, by decide⟩
  · exact ticking_tick k (by interval_cases k <;> decide)
  · interval_cases k <;> decide
  · refine ⟨by interval_cases k <;> decide, 2020#16, ?_⟩
    interval_cases k <;> decide

/-- T3's first two ticks: only the second moves the index. -/
theorem test_period : (ticking 1).chan0.idx = 0#3 ∧ (ticking 2).chan0.idx = 7#3 ∧ (ticking 2).chan0.elapsed = 5#32 := by
  decide

theorem witness_NopDoesNothing : opOf 0x00000001#32 = 0x0#4 ∧ 0x00000001#32 ≠ 0x00000000#32 := by decide

/-- The numbers where the reserved ones begin and end, and their neighbours. -/
theorem witness_RdregOfReservedNumbers :
    regAt 0x0D#8 = some (.rw .ctrl) ∧ regAt 0x0E#8 = none ∧ regAt 0x0F#8 = none ∧ regAt 0x10#8 = some (.ro .status) ∧
    regAt 0x1A#8 = some (.ro .faultCmd) ∧ regAt 0x1B#8 = none ∧ regAt 0xFF#8 = none ∧
    configuring.status.halted = false ∧ halted.status.halted = true := by decide

theorem witness_WrcfgWritesItsRegister :
    Configuring configuring ∧ (0x00#8).toNat ≤ 0x0D ∧ 0x00#8 ∉ [0x0B#8, 0x0C#8, 0x0D#8] ∧
    (0x0D#8).toNat ≤ 0x0D ∧ (1#16).toNat ≤ 1 := by decide

theorem witness_WrcfgRefusals :
    Configuring configuring ∧ 0x0D < (0x0E#8).toNat ∧ 0x0D < (0xFF#8).toNat ∧
    (0x0B#8 ∈ [0x0B#8, 0x0C#8, 0x0D#8] ∧ 1 < (2#16).toNat) := by decide

theorem witness_StartBringsBothMotorsUp :
    Configuring configuring ∧ configuring.ConfigValid ∧ (∀ m, configuring.writeAnswer m = .ok) :=
  ⟨by decide, by decide, forall_motor rfl rfl⟩

/-- Each part of the predicate broken at its boundary (95_test_vectors.md K11 to K14). -/
theorem witness_StartRejectsInvalidConfiguration :
    Configuring configuring ∧ ¬ State.ConfigValid { configuring with tickQ := 0#16 } ∧
    ¬ State.ConfigValid { configuring with minDelay := 21#16 } ∧
    ¬ State.ConfigValid { configuring with chan0 := { Channel.reset with calCenter := 0#16 } } ∧
    ¬ State.ConfigValid { configuring with chan1 := { Channel.reset with calCenter := 2081#16 } } := by decide

theorem witness_StartBringUpWriteFails :
    (Configuring { configuring with env0 := surroundings [] [.failed 0x5#4] 0x7#4 } ∧
      State.ConfigValid { configuring with env0 := surroundings [] [.failed 0x5#4] 0x7#4 } ∧
      State.errPolicy { configuring with env0 := surroundings [] [.failed 0x5#4] 0x7#4 } = .halt ∧
      State.writeAnswer { configuring with env0 := surroundings [] [.failed 0x5#4] 0x7#4 } .m0 = .failed 0x5#4 ∧
      State.writeAnswer { configuring with env0 := surroundings [] [.failed 0x5#4] 0x7#4 } .m1 = .ok) ∧
    (State.writeAnswer { configuring with env1 := surroundings [] [.failed 0x5#4] 0x7#4 } .m0 = .ok ∧
      State.writeAnswer { configuring with env1 := surroundings [] [.failed 0x5#4] 0x7#4 } .m1 = .failed 0x5#4) ∧
    (State.writeAnswer { skipping configuring with
          env0 := surroundings [] [.failed 0x5#4] 0x7#4, env1 := surroundings [] [.failed 0xA#4] 0x7#4 } .m0 =
        .failed 0x5#4 ∧
      State.writeAnswer { skipping configuring with
          env0 := surroundings [] [.failed 0x5#4] 0x7#4, env1 := surroundings [] [.failed 0xA#4] 0x7#4 } .m1 =
        .failed 0xA#4) ∧
    (skipping configuring).errPolicy = .skip := by decide

theorem witness_ConfigurationFixedWhileRunning :
    (offering (moving 0#3 1#1) [.command 0x600A0002#32]).status.run = true ∧
    NoReset (offering (moving 0#3 1#1) [.command 0x600A0002#32]) ∧
    ∃ t, step (offering (moving 0#3 1#1) [.command 0x600A0002#32]) = .next t :=
  ⟨rfl, fun x rest h => by cases h; rfl, _, rfl⟩

/-- A running block in mid-table is safe, and takes a step. -/
theorem witness_SafeState (items : List HostInput) : SafeState (offering (moving 5#3 1#1) items) where
  idx := forall_motor (by decide : (5#3).toNat < 8) (by decide : (0#3).toNat < 8)
  config := fun _ => (by decide : (moving 5#3 1#1).ConfigValid)
  fresh := fun h => by cases h
  delays := forall_motor trivial trivial
  faults := (by decide : FaultRecord (moving 5#3 1#1))
  errors := (by decide : ErrorsCounted (moving 5#3 1#1))
  pins := fun _ => forall_motor rfl rfl
  held := fun h => by cases h

theorem witness_SafeStepKeepsSafe :
    SafeState (offering (moving 5#3 1#1) [.command 0x10000000#32]) ∧
    ∃ t, step (offering (moving 5#3 1#1) [.command 0x10000000#32]) = .next t ∧ (t.chan0.idx == 6#3) = true :=
  ⟨witness_SafeState _,
    next_of_nextHas (o := step (offering (moving 5#3 1#1) [.command 0x10000000#32])) (p := fun t => t.chan0.idx == 6#3)
      (by decide)⟩

theorem witness_SafeStateAlwaysSteps : SafeState (offering (moving 5#3 1#1) [.command 0x50000000#32, .rst true]) :=
  witness_SafeState _

end Sys2Proof.Tests
end

/-! ## The state's registers and flags (spec/10_state.md)

Lemmas in the order of the definitions they speak of, then the statements they settle. -/

namespace Sys2Proof.Machine

variable {s t u : State} {w : Word} {m m' : Motor}

/-! ### Two more laws of the shared operations -/

@[simp] theorem afterSample_pins (e : MotorEnv) : e.afterSample.pins = e.pins := by
  unfold MotorEnv.afterSample
  split <;> rfl

@[simp] theorem len_wrote (p l : Pattern) (ok : Bool) : (s.wrote m p ok l).len m' = s.len m' := by
  by_cases h : m' = m <;> simp [State.len, h]

/-! ### START accepts only calibrations under which every sample decodes (41_decoder.md R99, R101) -/

/-- R95, R96: the map of a part `a` of a range `b` to the delays `dmin` to `dmax` stays between them. -/
theorem scaled_within {a b dmin dmax : Int} (ha : 0 ≤ a) (hab : a ≤ b) (hb : 0 < b) (hd : dmin ≤ dmax) :
    dmin ≤ max (dmin + (a * (dmax - dmin)).tdiv b) dmin ∧ max (dmin + (a * (dmax - dmin)).tdiv b) dmin ≤ dmax := by
  have hprod : 0 ≤ a * (dmax - dmin) := Int.mul_nonneg ha (by omega)
  have hle : a * (dmax - dmin) ≤ (dmax - dmin) * b := by
    rw [Int.mul_comm (dmax - dmin) b]
    exact Int.mul_le_mul_of_nonneg_right hab (by omega)
  have hquot : (a * (dmax - dmin)).tdiv b ≤ dmax - dmin := by
    rw [Int.tdiv_eq_ediv_of_nonneg hprod]
    exact Int.ediv_le_of_le_mul hb hle
  omega

/-- A delay that fits in 16 bits is its own register value. -/
theorem toNat_ofInt_delay {z : Int} (h0 : 0 ≤ z) (h1 : z ≤ 65535) : ((BitVec.ofInt 16 z).toNat : Int) = z := by
  rw [BitVec.toNat_ofInt]
  omega

/-- A Command with its delay between two integers. -/
def Command.DelayBetween (lo hi : Int) : Command → Prop
  | .stop => True
  | .forward d | .backward d => lo ≤ d.toNat ∧ (d.toNat : Int) ≤ hi

/-- R94: with the bounds in order the clamped sample is between them. -/
theorem Calib.clamp_mem {k : Calib} (h : k.lo ≤ k.hi) (x : Int) : k.lo ≤ k.clamp x ∧ k.clamp x ≤ k.hi := by
  unfold Calib.clamp
  omega

/-- R95 to R98: under a valid calibration the Command of a sample in range has its delay within the bounds. -/
theorem Calib.command_delayBetween {k : Calib} (hk : k.Valid) {v : Int} (hlo : k.lo ≤ v) (hhi : v ≤ k.hi) :
    (k.command v).DelayBetween k.dmin k.dmax := by
  obtain ⟨-, hc, hc', -, ht, hd0, hd, hd1⟩ := hk
  unfold Calib.command
  split
  · trivial
  · split
    · obtain ⟨h1, h2⟩ := scaled_within (a := v - k.lo) (b := k.c - k.lo) (by omega) (by omega) (by omega) hd
      simp only [Command.DelayBetween, Calib.forwardDelay]
      rw [toNat_ofInt_delay (by omega) (by omega)]
      exact ⟨h1, h2⟩
    · obtain ⟨h1, h2⟩ := scaled_within (a := k.hi - v) (b := k.hi - k.c) (by omega) (by omega) (by omega) hd
      simp only [Command.DelayBetween, Calib.backwardDelay]
      rw [toNat_ofInt_delay (by omega) (by omega)]
      exact ⟨h1, h2⟩

/-- R99, R101: under a valid calibration every sample decodes, to a Command with its delay within the bounds. -/
theorem Calib.decode_of_valid {k : Calib} (hk : k.Valid) (x : BitVec 16) :
    ∃ cmd, k.decode x = some cmd ∧ cmd.DelayBetween k.dmin k.dmax := by
  obtain ⟨-, hc, hc', -⟩ := id hk
  obtain ⟨hlo, hhi⟩ := Calib.clamp_mem (hc.trans hc').le (zOf x)
  exact ⟨_, if_neg (by omega), Calib.command_delayBetween hk hlo hhi⟩

/-- R126: the calibration of each motor of a valid configuration is valid. -/
theorem State.ConfigValid.calib (h : s.ConfigValid) (m : Motor) : (s.calib m).Valid := by
  obtain ⟨h0, h1, hd, -⟩ := h
  have hm : s.CalibValid m := by cases m <;> assumption
  have := (s.chan m).calMax.isLt
  have := s.maxDelay.isLt
  simp only [Calib.Valid, State.calib, zOf]
  omega

/-- `DelayWithin` over the integers. -/
theorem delayWithin_iff (lo hi : BitVec 16) (cmd : Command) :
    DelayWithin lo hi cmd ↔ cmd.DelayBetween (zOf lo) (zOf hi) := by
  cases cmd <;> simp [DelayWithin, Command.DelayBetween, zOf]

/-- R99, R101: in a started block every sample decodes, to a Command that respects the delay bounds. -/
theorem State.ConfigValid.decode (h : s.ConfigValid) (m : Motor) (x : BitVec 16) :
    ∃ cmd, (s.calib m).decode x = some cmd ∧ DelayWithin s.minDelay s.maxDelay cmd := by
  obtain ⟨cmd, hd, hb⟩ := Calib.decode_of_valid (h.calib m) x
  exact ⟨cmd, hd, (delayWithin_iff _ _ _).2 hb⟩

/-- R99: a started block never finds LOGIC_RANGE. -/
theorem State.ConfigValid.decode_ne_none (h : s.ConfigValid) (m : Motor) (x : BitVec 16) :
    (s.calib m).decode x ≠ none := by
  obtain ⟨cmd, hd, -⟩ := h.decode m x
  simp [hd]

/-- R101: what a started block decodes respects the delay bounds. -/
theorem State.ConfigValid.delayWithin (h : s.ConfigValid) {x : BitVec 16} {cmd : Command}
    (hd : (s.calib m).decode x = some cmd) : DelayWithin s.minDelay s.maxDelay cmd := by
  obtain ⟨cmd', hd', hw⟩ := h.decode m x
  rw [hd, Option.some.injEq] at hd'
  exact hd' ▸ hw

end Sys2Proof.Machine

namespace Sys2Proof.Machine

variable {s t u : State} {w : Word} {m m' : Motor} {D E : Motor → Prop}

/-! ### What every part of a run-phase command keeps (10_state.md R30 to R32, R41)

`StartedSafe` is `SafeState` after START, with the claim on the pins made of the driven motors only, so that it holds
in the middle of START's bring-up too. -/

/-- What holds after START, COIL being the level of the pins for the motors in `driven`. -/
structure StartedSafe (driven : Motor → Prop) (s : State) : Prop where
  run : s.status.run = true
  released : s.rst = false
  idx : IdxInTable s
  config : s.ConfigValid
  delays : ∀ m : Motor, DelayWithin s.minDelay s.maxDelay (s.chan m).cmd
  faults : FaultRecord s
  errors : ErrorsCounted s
  pins : Running s → ∀ m : Motor, driven m → (s.env m).pins = (s.chan m).coil

/-- A started safe state, `rst` released. -/
theorem SafeState.started (h : SafeState s) (hrun : s.status.run = true) (hrst : s.rst = false) :
    StartedSafe (fun _ => True) s where
  run := hrun
  released := hrst
  idx := h.idx
  config := h.config hrun
  delays := h.delays
  faults := h.faults
  errors := h.errors
  pins := fun hr m _ => h.pins hr m

/-- With both motors driven the state is safe. -/
theorem StartedSafe.safe (h : StartedSafe (fun _ => True) s) : SafeState s where
  idx := h.idx
  config := fun _ => h.config
  fresh := fun hrun => by simp [h.run] at hrun
  delays := h.delays
  faults := h.faults
  errors := h.errors
  pins := fun hr m => h.pins hr m trivial
  held := fun hrst => by simp [h.released] at hrst

/-- R132: the record of a fault agrees with itself, if it is none of the faults that no run reaches. -/
theorem faultRecord_faulted {c : Cause} (hn : c ≠ .none) (hl : c ≠ .logicRange)
    (hm : m = .m1 → c = .ioSample ∨ c = .ioPin) : FaultRecord (s.faulted w c m) :=
  ⟨fun h => by simp at h, fun _ => hn, hl, hm⟩

/-- R132: recording a fault keeps a started block safe; halted, it says nothing of the pins. -/
theorem StartedSafe.faulted (h : StartedSafe D s) {c : Cause} (hn : c ≠ .none) (hl : c ≠ .logicRange)
    (hm : m = .m1 → c = .ioSample ∨ c = .ioPin) : StartedSafe E (s.faulted w c m) where
  run := h.run
  released := h.released
  idx := h.idx
  config := h.config
  delays := h.delays
  faults := faultRecord_faulted hn hl hm
  errors := h.errors
  pins := fun hr => by simp [Running] at hr

/-- A saturating count that was raised is not 0 (R31). -/
theorem ioerrCnt_errorCounted_ne_zero : s.errorCounted.ioerrCnt ≠ 0#16 := by
  intro h
  have := congrArg BitVec.toNat h
  simp at this
  omega

theorem StartedSafe.errorCounted (h : StartedSafe D s) (hp : s.errPolicy = .skip) : StartedSafe D s.errorCounted where
  run := h.run
  released := h.released
  idx := h.idx
  config := h.config
  delays := h.delays
  faults := h.faults
  errors := ⟨⟨fun _ => ioerrCnt_errorCounted_ne_zero, fun _ => rfl⟩, fun _ => hp⟩
  pins := h.pins

theorem StartedSafe.setResult (h : StartedSafe D s) (v : Word) : StartedSafe D (s.setResult v) := { h with }

/-- A motor's registers may be updated to an index in the table and a Command within the bounds; a motor whose COIL
changes is no longer known to be driven. -/
theorem StartedSafe.setChan (h : StartedSafe D s) {c : Channel} (hcenter : c.calCenter = (s.chan m).calCenter)
    (hmin : c.calMin = (s.chan m).calMin) (hmax : c.calMax = (s.chan m).calMax) (hidx : c.idx.toNat < lenOf c.mode)
    (hcmd : DelayWithin s.minDelay s.maxDelay c.cmd)
    (hE : ∀ m', E m' → D m' ∧ (m' = m → c.coil = (s.chan m).coil)) : StartedSafe E (s.setChan m c) where
  run := by simpa using h.run
  released := by simpa using h.released
  idx := fun m' => by
    by_cases hm : m' = m
    · simpa [State.len, hm] using hidx
    · simpa [State.len, hm] using h.idx m'
  config := by
    have hc : ∀ m', s.CalibValid m' → (s.setChan m c).CalibValid m' := fun m' hv => by
      by_cases hm : m' = m
      · subst hm
        simpa [State.CalibValid, hcenter, hmin, hmax] using hv
      · simpa [State.CalibValid, hm] using hv
    obtain ⟨h0, h1, hd⟩ := h.config
    exact ⟨hc .m0 h0, hc .m1 h1, by simpa using hd⟩
  delays := fun m' => by
    by_cases hm : m' = m
    · simpa [hm] using hcmd
    · simpa [hm] using h.delays m'
  faults := by simpa [FaultRecord] using h.faults
  errors := by simpa [ErrorsCounted, State.errPolicy] using h.errors
  pins := fun hr m' hm' => by
    obtain ⟨hd, hcoil⟩ := hE m' hm'
    have hpins := h.pins (by simpa [Running] using hr) m' hd
    by_cases hm : m' = m
    · subst hm
      simpa [hcoil rfl] using hpins
    · simpa [hm] using hpins

/-- A motor's surroundings may be replaced by ones that agree with its COIL, if it is to count as driven. -/
theorem StartedSafe.setEnv (h : StartedSafe D s) {e : MotorEnv}
    (hE : Running s → ∀ m', E m' → ((s.setEnv m e).env m').pins = (s.chan m').coil) : StartedSafe E (s.setEnv m e) where
  run := by simpa using h.run
  released := by simpa using h.released
  idx := fun m' => by simpa [State.len] using h.idx m'
  config := by simpa [State.ConfigValid, State.CalibValid] using h.config
  delays := fun m' => by simpa using h.delays m'
  faults := by simpa [FaultRecord] using h.faults
  errors := by simpa [ErrorsCounted, State.errPolicy] using h.errors
  pins := fun hr m' hm' => by
    rw [chan_setEnv]
    exact hE (by simpa [Running] using hr) m' hm'

theorem StartedSafe.logCall (h : StartedSafe D s) (c : EnvCall) : StartedSafe D (s.logCall c) := { h with }

/-- R77: a pattern write leaves COIL and the pins at one level, so its motor is driven. -/
theorem StartedSafe.wrote (h : StartedSafe D s) (hE : ∀ m', E m' → m' ≠ m → D m') (p l : Pattern) (ok : Bool) :
    StartedSafe E (s.wrote m p ok l) := by
  have hcoil : StartedSafe (fun m' => E m' ∧ m' ≠ m) (s.setChan m { s.chan m with coil := l }) :=
    h.setChan rfl rfl rfl (h.idx m) (h.delays m) fun m' ⟨he, hne⟩ => ⟨hE m' he hne, fun heq => absurd heq hne⟩
  refine (hcoil.setEnv fun hr m' he => ?_).logCall _
  by_cases hm : m' = m
  · simp [hm]
  · simpa [hm] using hcoil.pins hr m' ⟨he, hm⟩

theorem StartedSafe.sampleRead (h : StartedSafe D s) : StartedSafe D (sampleRead m s) := by
  refine (h.setEnv fun hr m' hd => ?_).logCall _
  by_cases hm : m' = m
  · subst hm
    simpa using h.pins hr m' hd
  · simpa [hm] using h.pins hr m' hd

theorem StartedSafe.setIdx (h : StartedSafe D s) {v : BitVec 3} (hv : v.toNat < s.len m) :
    StartedSafe D (s.setIdx m v) :=
  h.setChan rfl rfl rfl hv (h.delays m) fun _ hd => ⟨hd, fun _ => rfl⟩

theorem StartedSafe.setElapsed (h : StartedSafe D s) (v : BitVec 32) : StartedSafe D (s.setElapsed m v) :=
  h.setChan rfl rfl rfl (h.idx m) (h.delays m) fun _ hd => ⟨hd, fun _ => rfl⟩

theorem StartedSafe.setCmd (h : StartedSafe D s) {cmd : Command} (hc : DelayWithin s.minDelay s.maxDelay cmd) :
    StartedSafe D (s.setCmd m cmd) :=
  h.setChan rfl rfl rfl (h.idx m) hc fun _ hd => ⟨hd, fun _ => rfl⟩

/-- R110: the sample read and the Command it decodes to kept. -/
theorem StartedSafe.told (h : StartedSafe D s) {x : BitVec 16} {cmd : Command}
    (hd : (s.calib m).decode x = some cmd) : StartedSafe D (told m cmd s) :=
  h.sampleRead.setCmd (by simpa using h.config.delayWithin hd)

/-- R78: the index a step moves to is in the table. -/
theorem moveIdx_lt_len (dir : Dir) : (moveIdx dir (s.len m) (s.chan m).idx).toNat < s.len m :=
  moveIdx_lt dir (s.chan m).mode (s.chan m).idx

/-- R79: a stop drives its motor. -/
theorem StopPart.startedSafe {r : Flow Unit} (hr : StopPart w m s r) (h : StartedSafe D s)
    (hE : ∀ m', E m' → m' ≠ m → D m') : StartedSafe E r.final := by
  cases hr with
  | stops => exact h.wrote hE ..
  | halts l => exact (h.wrote hE ..).faulted (by decide) (by decide) fun _ => Or.inr rfl
  | skipped l hw hp => exact (h.wrote hE ..).errorCounted (by simpa using hp)

/-- R80: a step keeps a started block safe. -/
theorem StepPart.startedSafe {dir : Dir} {r : Flow Bool} (hr : StepPart w m dir s r) (h : StartedSafe D s) :
    StartedSafe D r.final := by
  have hw := fun p l ok => h.wrote (m := m) (fun _ hd _ => hd) p l ok
  cases hr with
  | steps => exact (hw ..).setIdx (by simpa using moveIdx_lt_len dir)
  | halts l => exact (hw ..).faulted (by decide) (by decide) fun _ => Or.inr rfl
  | skipped l _ hp => exact (hw ..).errorCounted (by simpa using hp)

/-- R110: a motor's part of a TICK keeps a started block safe. -/
theorem TickPart.startedSafe {r : Flow Unit} (hr : TickPart w m s r) (h : StartedSafe D s) :
    StartedSafe D r.final := by
  have hw : ∀ {x cmd}, (s.calib m).decode x = some cmd → ∀ p l ok, StartedSafe D ((told m cmd s).wrote m p ok l) :=
    fun hd => (h.told hd).wrote fun _ hd _ => hd
  cases hr with
  | sampleHalts => exact h.sampleRead.faulted (by decide) (by decide) fun _ => Or.inl rfl
  | sampleSkipped _ hp => exact h.sampleRead.errorCounted (by simpa using hp)
  | outOfRange x _ hd => exact absurd hd (h.config.decode_ne_none m x)
  | stops x _ hd => exact hw hd ..
  | stopHalts x l _ hd => exact (hw hd ..).faulted (by decide) (by decide) fun _ => Or.inr rfl
  | stopSkipped x l _ hd _ hp => exact (hw hd ..).errorCounted (by simpa using hp)
  | waits x d dir _ hd => exact h.told hd
  | steps x d dir _ hd =>
    refine ((hw hd ..).setIdx ?_).setElapsed _
    simpa using moveIdx_lt_len dir
  | stepHalts x d dir l _ hd => exact (hw hd ..).faulted (by decide) (by decide) fun _ => Or.inr rfl
  | stepSkipped x d dir l _ hd _ _ _ hp => exact (hw hd ..).errorCounted (by simpa using hp)

/-- R110: a whole TICK keeps a started block safe. -/
theorem execTick_startedSafe (hr : Running s) (ht : execTick s = .next t) (h : StartedSafe D s) : StartedSafe D t := by
  rcases execTick_cases hr ht with h0 | ⟨u, h0, h1⟩ | ⟨u, v, h0, h1, rfl⟩
  · exact h0.startedSafe h
  · exact (tickMotor_part (h0.running hr) h1).startedSafe (h0.startedSafe h)
  · exact (((tickMotor_part (h0.running hr) h1).startedSafe (h0.startedSafe h)).setElapsed _).setElapsed _

/-! ### The configuration phase and reset (43_control.md R122, 70_reset_and_hazards.md R151) -/

/-- Before START the fresh values and the fault record are all that safety asks of a block whose `rst` is released. -/
theorem SafeState.of_fresh (hrun : s.status.run = false) (hfresh : ConfigPhaseFresh s) (hfaults : FaultRecord s)
    (hheld : s.rst = true → resetRegisters s = s) : SafeState s := by
  obtain ⟨herr, hcnt, hchan⟩ := hfresh hrun
  exact {
    idx := fun m => by
      obtain ⟨hidx, -⟩ := hchan m
      unfold State.len lenOf
      split <;> simp [hidx]
    config := fun h => by simp [hrun] at h
    fresh := hfresh
    delays := fun m => by
      obtain ⟨-, -, -, hcmd⟩ := hchan m
      simp [hcmd, DelayWithin]
    faults := hfaults
    errors := by simp [ErrorsCounted, herr, hcnt]
    pins := fun hr => by simp [Running, hrun] at hr
    held := hheld }

/-- R151, R152: a block whose registers hold their reset values is safe. -/
theorem SafeState.of_reset (h : resetRegisters s = s) : SafeState s := by
  rw [← h]
  exact .of_fresh rfl (fun _ => ⟨rfl, rfl, fun m => by cases m <;> exact ⟨rfl, rfl, rfl, rfl⟩⟩)
    (by decide : FaultRecord State.reset) fun _ => rfl

/-- R151: asserting `rst` leaves a safe state, whatever the state before. -/
theorem safeState_assertReset (s : State) : SafeState (assertReset s) := .of_reset rfl

/-- R151: so does releasing it, from a safe state. -/
theorem SafeState.releaseReset (h : SafeState s) : SafeState (releaseReset s) := by
  unfold Machine.releaseReset
  split
  · exact .of_reset rfl
  · exact h

/-! ### What a configuration write leaves (10_state.md R16, 43_control.md R121, R122) -/

section
variable (r : CfgReg) (v : BitVec 16)

@[simp] theorem writeCfg_status : (s.writeCfg r v).status = s.status := by cases r <;> simp [State.writeCfg]
@[simp] theorem writeCfg_ioerrCnt : (s.writeCfg r v).ioerrCnt = s.ioerrCnt := by cases r <;> simp [State.writeCfg]
@[simp] theorem writeCfg_faultCmd : (s.writeCfg r v).faultCmd = s.faultCmd := by cases r <;> simp [State.writeCfg]
@[simp] theorem writeCfg_result : (s.writeCfg r v).result = s.result := by cases r <;> simp [State.writeCfg]
@[simp] theorem writeCfg_rst : (s.writeCfg r v).rst = s.rst := by cases r <;> simp [State.writeCfg]
@[simp] theorem writeCfg_host : (s.writeCfg r v).host = s.host := by cases r <;> simp [State.writeCfg]
@[simp] theorem writeCfg_calls : (s.writeCfg r v).calls = s.calls := by cases r <;> simp [State.writeCfg]

@[simp] theorem env_writeCfg : (s.writeCfg r v).env m = s.env m := by
  cases r with
  | minDelay | maxDelay | tickQ | ctrl => rfl
  | calCenter | calThresh | calMin | calMax | mode => simp [State.writeCfg]

/-- R122: no index, coil record, counter or Command is written. -/
theorem writeCfg_motion : ((s.writeCfg r v).chan m).idx = (s.chan m).idx ∧
    ((s.writeCfg r v).chan m).coil = (s.chan m).coil ∧ ((s.writeCfg r v).chan m).elapsed = (s.chan m).elapsed ∧
    ((s.writeCfg r v).chan m).cmd = (s.chan m).cmd := by
  cases r with
  | minDelay | maxDelay | tickQ | ctrl => exact ⟨rfl, rfl, rfl, rfl⟩
  | calCenter m' | calThresh m' | calMin m' | calMax m' | mode m' =>
    by_cases hm : m = m'
    · simp [State.writeCfg, hm]
    · simp [State.writeCfg, hm]

end

/-- R122: a configuration write keeps a safe state safe. -/
theorem SafeState.writeCfg (h : SafeState s) (hc : Configuring s) (hrst : s.rst = false) (r : CfgReg)
    (v : BitVec 16) : SafeState (s.writeCfg r v) := by
  refine .of_fresh (by simpa using hc.2) ?_ (by simpa [FaultRecord] using h.faults) (by simp [hrst])
  simpa [ConfigPhaseFresh, writeCfg_motion] using h.fresh

/-! ### A command keeps a safe state safe -/

/-- R132: recording a fault keeps a safe state safe. -/
theorem SafeState.faulted (h : SafeState s) (hrst : s.rst = false) {c : Cause} (hn : c ≠ .none)
    (hl : c ≠ .logicRange) (hm : m = .m1 → c = .ioSample ∨ c = .ioPin) : SafeState (s.faulted w c m) where
  idx := h.idx
  config := h.config
  fresh := h.fresh
  delays := h.delays
  faults := faultRecord_faulted hn hl hm
  errors := h.errors
  pins := fun hr => by simp [Running] at hr
  held := fun hr => by simp [hrst] at hr

theorem SafeState.setResult (h : SafeState s) (hrst : s.rst = false) (v : Word) : SafeState (s.setResult v) :=
  { h with held := fun hr => by simp [hrst] at hr }

/-- Taking the host's item keeps a safe state safe: the host is not of the block. -/
theorem SafeState.setHost (h : SafeState s) (items : List HostInput) : SafeState (s.setHost items) :=
  { h with held := fun hr => congrArg (·.setHost items) (h.held hr) }

/-- R125, R127: with RUN set and a valid configuration the block is started, no motor driven yet. -/
theorem SafeState.start (h : SafeState s) (hv : s.ConfigValid) (hrst : s.rst = false) :
    StartedSafe (fun _ => False) s.started where
  run := rfl
  released := hrst
  idx := h.idx
  config := hv
  delays := h.delays
  faults := h.faults
  errors := h.errors
  pins := fun _ _ hd => hd.elim

/-- R125, R127: START's bring-up drives motor 0 and then motor 1, unless it ends in a fault. -/
theorem BringUp.safeState (hb : BringUp w s t) (h : StartedSafe (fun _ => False) s.started) : SafeState t := by
  cases hb with
  | first _ h0 =>
    cases h0 with
    | halts l =>
      have hw := h.wrote (m := .m0) (E := fun _ => False) (fun _ he _ => he) 0x0#4 l false
      exact (hw.faulted (by decide) (by decide) (by decide)).safe
  | both u r h0 _ h1 =>
    have hu : StartedSafe (fun m => m = .m0) u := h0.startedSafe h fun _ he hne => hne he
    exact (h1.startedSafe hu fun m _ hne => by cases m <;> simp_all).safe

/-- Whatever way a command ends, a safe state stays safe. -/
theorem ExecPart.safeState {i : Instr} (hp : ExecPart i s t) (h : SafeState s) (hrst : s.rst = false) :
    SafeState t := by
  cases hp with
  | unchanged => exact h
  | illegal => exact h.faulted hrst (by decide) (by decide) (by decide)
  | reads r v => exact h.setResult hrst v
  | steps m dir r hr _ _ hs => exact (hs.startedSafe (h.started hr.2 hrst)).safe
  | stops m r hr _ hs => exact (hs.startedSafe (h.started hr.2 hrst) fun _ _ _ => trivial).safe
  | decodes m x cmd => exact h.setResult hrst _
  | outOfRange m x hr _ hd => exact absurd hd ((h.config hr.2).decode_ne_none m x)
  | ticks _ hr _ ht => exact (execTick_startedSafe hr ht (h.started hr.2 hrst)).safe
  | writes n v r hc => exact h.writeCfg hc hrst r v
  | invalid => exact h.faulted hrst (by decide) (by decide) (by decide)
  | starts _ _ _ hv hb => exact hb.safeState (h.start hv hrst)

/-- R131: performing a word keeps a safe state safe. -/
theorem performWord_safeState (h : SafeState s) (hrst : s.rst = false) (ht : performWord w s = .next t) :
    SafeState t := by
  unfold performWord at ht
  split at ht
  · exact (exec_part ht).safeState h hrst
  · cases ht
    cases hh : s.status.halted with
    | true => rwa [raise_of_halted _ hh]
    | false =>
      rw [raise_eq_faulted _ hh]
      exact h.faulted hrst (by decide) (by decide) (by decide)

/-- R151: an abandoned command leaves reset values. -/
theorem cutCommand_safeState {k : Nat} (ht : cutCommand w k s = .next t) : SafeState t := by
  unfold cutCommand at ht
  split at ht <;> cases ht
  exact safeState_assertReset _

/-- R14, R15, R151: whatever the host does next keeps a safe state safe. -/
theorem acceptInput_safeState {x : HostInput} (h : SafeState s) (ht : acceptInput x s = .next t) : SafeState t := by
  unfold acceptInput at ht
  split at ht
  case h_1 =>
    split at ht
    · cases ht; exact h
    · rename_i hrst
      exact performWord_safeState h (Bool.eq_false_of_not_eq_true hrst) ht
  case h_2 =>
    split at ht
    · cases ht; exact h
    · exact cutCommand_safeState ht
  case h_3 => cases ht; exact safeState_assertReset s
  case h_4 => cases ht; exact h.releaseReset

/-- R148: with nothing offered the block is idle. -/
theorem step_idle (hh : s.host = []) : step s = .next s := by simp [step, takeNext, hh]

/-- R14, R15: a step takes the host's next item. -/
theorem step_offered {x : HostInput} {rest : List HostInput} (hh : s.host = x :: rest) :
    step s = acceptInput x (s.setHost rest) := by simp [step, takeNext, hh]

/-- Settles O59: an idle step leaves the state, and any other takes the host's next item. -/
theorem safeStepKeepsSafe : Obligations.SafeStepKeepsSafe := by
  intro s t h ht
  cases hh : s.host with
  | nil =>
    rw [step_idle hh] at ht
    cases ht
    exact h
  | cons x rest =>
    rw [step_offered hh] at ht
    exact acceptInput_safeState (h.setHost rest) ht

end Sys2Proof.Machine

namespace Sys2Proof.Machine

variable {s t u : State} {w : Word} {m m' : Motor} {i : Instr}

/-! ### The flags (10_state.md R30, R31) -/

/-- `t` comes after `s` with no flag cleared, and with IO_ERR changed under SKIP only. -/
structure FlagsKept (s t : State) : Prop where
  policy : t.errPolicy = s.errPolicy
  run : s.status.run = true → t.status.run = true
  halted : s.status.halted = true → t.status.halted = true
  ioErr : s.status.ioErr = true → t.status.ioErr = true
  counted : t.status.ioErr ≠ s.status.ioErr → s.errPolicy = .skip

theorem FlagsKept.refl (s : State) : FlagsKept s s := ⟨rfl, id, id, id, fun h => absurd rfl h⟩

theorem FlagsKept.trans (h : FlagsKept s t) (h' : FlagsKept t u) : FlagsKept s u where
  policy := h'.policy.trans h.policy
  run := h'.run ∘ h.run
  halted := h'.halted ∘ h.halted
  ioErr := h'.ioErr ∘ h.ioErr
  counted := fun hne => by
    by_cases ht : t.status.ioErr = s.status.ioErr
    · exact h.policy ▸ h'.counted (ht ▸ hne)
    · exact h.counted ht

/-- An operation that writes neither STATUS nor CTRL keeps the flags. -/
theorem FlagsKept.of_eq (hs : t.status = s.status) (hc : t.ctrl = s.ctrl) : FlagsKept s t := by
  have hp : t.errPolicy = s.errPolicy := by simp [State.errPolicy, hc]
  exact ⟨hp, by simp [hs], by simp [hs], by simp [hs], by simp [hs]⟩

/-- R132: recording a fault sets HALTED. -/
theorem FlagsKept.faulted (h : FlagsKept s t) (c : Cause) : FlagsKept s (t.faulted w c m) :=
  h.trans ⟨rfl, id, fun _ => rfl, id, fun hne => absurd rfl hne⟩

/-- R136: counting an error sets IO_ERR, under SKIP. -/
theorem FlagsKept.errorCounted (h : FlagsKept s t) (hp : t.errPolicy = .skip) : FlagsKept s t.errorCounted :=
  h.trans ⟨rfl, id, id, fun _ => rfl, fun _ => hp⟩

theorem flagsKept_wrote (p l : Pattern) (ok : Bool) : FlagsKept s (s.wrote m p ok l) := .of_eq (by simp) (by simp)

theorem flagsKept_wrote_told (cmd : Command) (p l : Pattern) (ok : Bool) :
    FlagsKept s ((told m cmd s).wrote m p ok l) := .of_eq (by simp) (by simp)

theorem flagsKept_sampleRead : FlagsKept s (sampleRead m s) := .of_eq (by simp) (by simp)

theorem StopPart.flagsKept {r : Flow Unit} (h : StopPart w m s r) : FlagsKept s r.final := by
  cases h with
  | stops => exact flagsKept_wrote ..
  | halts => exact (flagsKept_wrote ..).faulted _
  | skipped l _ hp => exact (flagsKept_wrote ..).errorCounted (by simpa using hp)

theorem StepPart.flagsKept {dir : Dir} {r : Flow Bool} (h : StepPart w m dir s r) : FlagsKept s r.final := by
  cases h with
  | steps => exact .of_eq (by simp) (by simp)
  | halts => exact (flagsKept_wrote ..).faulted _
  | skipped l _ hp => exact (flagsKept_wrote ..).errorCounted (by simpa using hp)

theorem TickPart.flagsKept {r : Flow Unit} (h : TickPart w m s r) : FlagsKept s r.final := by
  cases h with
  | sampleHalts => exact flagsKept_sampleRead.faulted _
  | sampleSkipped _ hp => exact flagsKept_sampleRead.errorCounted (by simpa using hp)
  | outOfRange => exact flagsKept_sampleRead.faulted _
  | stops | waits | steps => exact .of_eq (by simp) (by simp)
  | stopHalts | stepHalts => exact (flagsKept_wrote_told ..).faulted _
  | stopSkipped _ _ _ _ _ hp => exact (flagsKept_wrote_told ..).errorCounted (by simpa using hp)
  | stepSkipped _ _ _ _ _ _ _ _ _ hp => exact (flagsKept_wrote_told ..).errorCounted (by simpa using hp)

/-- R111, R112: the increment writes motor `m`'s ELAPSED alone. -/
theorem FlagsKept.advance (h : FlagsKept s t) : FlagsKept s (advance m t) :=
  h.trans (.of_eq (by simp [Machine.advance]) (by simp [Machine.advance]))

theorem execTick_flagsKept (hr : Running s) (ht : execTick s = .next t) : FlagsKept s t := by
  rcases execTick_cases hr ht with h0 | ⟨u, h0, h1⟩ | ⟨u, v, h0, h1, rfl⟩
  · exact h0.flagsKept
  · exact h0.flagsKept.trans (tickMotor_part (h0.running hr) h1).flagsKept
  · exact (h0.flagsKept.trans (tickMotor_part (h0.running hr) h1).flagsKept).advance.advance

/-- R125: START sets RUN. -/
theorem flagsKept_started : FlagsKept s s.started := ⟨rfl, fun _ => rfl, id, id, fun hne => absurd rfl hne⟩

theorem BringUp.flagsKept (h : BringUp w s t) : FlagsKept s t := by
  cases h with
  | first _ h0 => exact flagsKept_started.trans h0.flagsKept
  | both u r h0 _ h1 => exact flagsKept_started.trans (h0.flagsKept.trans h1.flagsKept)

/-- R30, R31: a command leaves STATUS, or clears no flag and changes IO_ERR under SKIP only. -/
theorem ExecPart.flags (h : ExecPart i s t) : t.status = s.status ∨ FlagsKept s t := by
  cases h with
  | unchanged | reads | decodes => exact .inl rfl
  | writes n v r => exact .inl (writeCfg_status r v)
  | illegal | outOfRange | invalid => exact .inr ((FlagsKept.refl s).faulted _)
  | steps _ _ _ _ _ _ h => exact .inr h.flagsKept
  | stops _ _ _ _ h => exact .inr h.flagsKept
  | ticks _ hr _ h => exact .inr (execTick_flagsKept hr h)
  | starts _ _ _ _ h => exact .inr h.flagsKept

/-- R30: what sets RUN is START with a valid configuration. -/
theorem ExecPart.start_of_run (h : ExecPart i s t) (h0 : s.status.run = false) (h1 : t.status.run = true) :
    i = .start ∧ s.ConfigValid := by
  cases h with
  | unchanged => simp [h0] at h1
  | illegal | reads | invalid => simp [h0] at h1
  | writes => simp [h0] at h1
  | steps _ _ _ hr | stops _ _ hr | decodes _ _ _ hr | outOfRange _ _ hr | ticks _ hr => simp [hr.2] at h0
  | starts _ _ hi hv => exact ⟨hi, hv⟩

/-- Settles O16: way by way a command can end, with the flags followed through its parts. -/
theorem flagWriters : Obligations.FlagWriters := by
  intro i s t h
  refine ⟨(exec_part h).start_of_run, ?_⟩
  rcases (exec_part h).flags with hs | ⟨-, hrun, hhalted, hio, hcounted⟩
  · simp [hs]
  · exact ⟨hrun, hhalted, hio, hcounted⟩

/-! ### RESULT (R37) -/

theorem StopPart.keeps_result {r : Flow Unit} (h : StopPart w m s r) : r.final.result = s.result := by
  cases h <;> simp

theorem StepPart.keeps_result {dir : Dir} {r : Flow Bool} (h : StepPart w m dir s r) :
    r.final.result = s.result := by
  cases h <;> simp

theorem TickPart.keeps_result {r : Flow Unit} (h : TickPart w m s r) : r.final.result = s.result := by
  obtain ⟨-, -, -, -, -, -, hresult, -⟩ := h.keeps
  exact hresult

theorem execTick_keeps_result (hr : Running s) (ht : execTick s = .next t) : t.result = s.result := by
  rcases execTick_cases hr ht with h0 | ⟨u, h0, h1⟩ | ⟨u, v, h0, h1, rfl⟩
  · exact h0.keeps_result
  · exact (tickMotor_part (h0.running hr) h1).keeps_result.trans h0.keeps_result
  · have hv := (tickMotor_part (h0.running hr) h1).keeps_result.trans h0.keeps_result
    simpa [advance] using hv

theorem BringUp.keeps_result (h : BringUp w s t) : t.result = s.result := by
  cases h with
  | first _ h0 => exact h0.keeps_result
  | both u r h0 _ h1 => exact h1.keeps_result.trans h0.keeps_result

/-- R37: a command that is neither DECODE nor RDREG keeps RESULT. -/
theorem ExecPart.keeps_result (h : ExecPart i s t) :
    t.result = s.result ∨ (∃ m x, i = .decode m x) ∨ ∃ r, i = .rdreg r := by
  cases h with
  | unchanged | illegal | outOfRange | invalid => exact .inl rfl
  | reads r _ hi => exact .inr (.inr ⟨r, hi⟩)
  | decodes m x _ _ hi => exact .inr (.inl ⟨m, x, hi⟩)
  | steps _ _ _ _ _ _ h => exact .inl h.keeps_result
  | stops _ _ _ _ h => exact .inl h.keeps_result
  | ticks _ hr _ h => exact .inl (execTick_keeps_result hr h)
  | writes n v r => exact .inl (writeCfg_result r v)
  | starts _ _ _ _ h => exact .inl h.keeps_result

/-- Settles O18: only two of the ways a command can end write RESULT. -/
theorem resultWriters : Obligations.ResultWriters := fun _ _ _ h hne => (exec_part h).keeps_result.resolve_left hne

/-! ### The indices, counters and Commands (R32, R35, 42_dispatch.md R111) -/

/-- R79: of the registers of a motor a stop writes COIL alone. -/
theorem StopPart.chan_eq {r : Flow Unit} (h : StopPart w m s r) (m' : Motor) :
    ∃ l, r.final.chan m' = { s.chan m' with coil := l } := by
  by_cases hm : m' = m
  · cases h with
    | stops => exact ⟨0x0#4, by simp [hm]⟩
    | halts l | skipped l => exact ⟨l, by simp [hm]⟩
  · exact ⟨(s.chan m').coil, by cases h <;> simp [hm]⟩

/-- R80: of the registers of its motor a step writes COIL and IDX alone. -/
theorem StepPart.chan_eq {dir : Dir} {r : Flow Bool} (h : StepPart w m dir s r) :
    ∃ l v, r.final.chan m = { s.chan m with coil := l, idx := v } := by
  cases h with
  | steps => exact ⟨s.entry m (s.index m), moveIdx dir (s.len m) (s.chan m).idx, by simp⟩
  | halts l | skipped l => exact ⟨l, (s.chan m).idx, by simp⟩

/-- R80, R88: a step leaves the other motor's registers. -/
theorem StepPart.chan_of_ne {dir : Dir} {r : Flow Bool} (h : StepPart w m dir s r) (hm : m' ≠ m) :
    r.final.chan m' = s.chan m' := by
  cases h <;> simp [hm]

/-- R125: of the registers of a motor START writes COIL alone. -/
theorem BringUp.chan_eq (h : BringUp w s t) (m : Motor) : ∃ l, t.chan m = { s.chan m with coil := l } := by
  cases h with
  | first _ h0 => simpa using h0.chan_eq m
  | both u r h0 _ h1 =>
    obtain ⟨l, hl⟩ := h0.chan_eq m
    obtain ⟨l', hl'⟩ := h1.chan_eq m
    rw [final_cont, chan_started] at hl
    exact ⟨l', by rw [hl', hl]⟩

/-- R32: a command that moves IDX[m] is a step of motor `m` or a TICK. -/
theorem ExecPart.idx_writers (h : ExecPart i s t) (m : Motor) :
    (t.chan m).idx = (s.chan m).idx ∨ i = .stepf m ∨ i = .stepb m ∨ i = .tick := by
  cases h with
  | unchanged => exact .inl rfl
  | illegal | reads | decodes | outOfRange | invalid => exact .inl (by simp)
  | steps m' dir _ _ hi _ h =>
    by_cases hm : m = m'
    · subst hm
      cases dir with
      | fwd => exact .inr (.inl hi)
      | back => exact .inr (.inr (.inl hi))
    · exact .inl (by rw [h.chan_of_ne hm])
  | stops _ _ _ _ h =>
    obtain ⟨l, hl⟩ := h.chan_eq m
    exact .inl (by rw [hl])
  | ticks _ _ hi => exact .inr (.inr (.inr hi))
  | writes n v r => exact .inl (writeCfg_motion r v).1
  | starts _ _ _ _ h =>
    obtain ⟨l, hl⟩ := h.chan_eq m
    exact .inl (by rw [hl])

/-- R34, R35: a command that changes ELAPSED[m] or CMD[m] is TICK. -/
theorem ExecPart.timer_writers (h : ExecPart i s t) (m : Motor) :
    ((t.chan m).elapsed = (s.chan m).elapsed ∧ (t.chan m).cmd = (s.chan m).cmd) ∨ i = .tick := by
  cases h with
  | unchanged => exact .inl ⟨rfl, rfl⟩
  | illegal | reads | decodes | outOfRange | invalid => exact .inl (by simp)
  | steps m' dir _ _ _ _ h =>
    by_cases hm : m = m'
    · subst hm
      obtain ⟨l, v, hl⟩ := h.chan_eq
      exact .inl (by simp [hl])
    · exact .inl (by simp [h.chan_of_ne hm])
  | stops _ _ _ _ h =>
    obtain ⟨l, hl⟩ := h.chan_eq m
    exact .inl (by simp [hl])
  | ticks _ _ hi => exact .inr hi
  | writes n v r =>
    obtain ⟨-, -, helapsed, hcmd⟩ := writeCfg_motion (s := s) (m := m) r v
    exact .inl ⟨helapsed, hcmd⟩
  | starts _ _ _ _ h =>
    obtain ⟨l, hl⟩ := h.chan_eq m
    exact .inl (by simp [hl])

/-- Settles O19: the parts of the other commands write COIL or a configuration register alone. -/
theorem sequencerAndCounterWriters : Obligations.SequencerAndCounterWriters := by
  intro i s t m h
  refine ⟨fun hne => ((exec_part h).idx_writers m).resolve_left hne, fun hne => ?_⟩
  refine ((exec_part h).timer_writers m).resolve_left fun ⟨helapsed, hcmd⟩ => ?_
  exact hne.elim (absurd helapsed) (absurd hcmd)

/-! ### WRCFG and RDREG (R16, R18, 43_control.md R121, R123) -/

/-- R121: a value that fits is written. -/
theorem writeChecked_of_fits {n : BitVec 8} {v : BitVec 16} {r : CfgReg} (hn : cfgRegAt n = some r)
    (hv : r.oneBit = true → v.toNat ≤ 1) : writeChecked w n v s = s.writeCfg r v := by
  have hfits : ¬ (r.oneBit = true ∧ v.extractLsb' 1 15 ≠ 0#15) := fun ⟨ho, hb⟩ =>
    hb ((upper_bits_zero_iff v).2 (hv ho))
  simp only [writeChecked, hn, if_neg hfits]

/-- R121: a number that names no RW register is refused. -/
theorem writeChecked_of_not_rw {n : BitVec 8} {v : BitVec 16} (hn : cfgRegAt n = none) :
    writeChecked w n v s = raise w .illegalCmd .m0 s := by
  simp only [writeChecked, hn]

/-- R121: so is a value above 1 for a register of one bit. -/
theorem writeChecked_of_too_wide {n : BitVec 8} {v : BitVec 16} {r : CfgReg} (hn : cfgRegAt n = some r)
    (ho : r.oneBit = true) (hv : 1 < v.toNat) : writeChecked w n v s = raise w .illegalCmd .m0 s := by
  have hwide : v.extractLsb' 1 15 ≠ 0#15 := fun hb => absurd ((upper_bits_zero_iff v).1 hb) (by omega)
  simp only [writeChecked, hn, if_pos (And.intro ho hwide)]

/-- R16, R17: the numbers up to 0x0D name the RW registers, as WRCFG looks them up. -/
theorem cfgRegAt_cfg {n : BitVec 8} (h : n.toNat ≤ 0x0D) :
    ∃ r, cfgRegAt n = some r ∧ regAt n = some (.rw r) ∧ (r.oneBit = true ↔ n ∈ [0x0B#8, 0x0C#8, 0x0D#8]) := by
  obtain ⟨r, hr, -, ho⟩ := regAt_cfg n h
  exact ⟨r, by simp [cfgRegAt, hr], hr, ho⟩

/-- R130: in the configuration phase WRCFG goes on to its checks. -/
theorem execWrcfg_configuring (hc : Configuring s) (n : BitVec 8) (v : BitVec 16) :
    exec (.wrcfg n v) s = .next (writeChecked (encode (.wrcfg n v)) n v s) :=
  congrArg Host.Outcome.next (inConfigPhase_configuring _ hc)

/-- A write of the register a number names is read back by that number (R16). -/
theorem regRead_writeCfg_same {n : BitVec 8} {v : BitVec 16} {r : CfgReg} (hn : regAt n = some (.rw r))
    (hv : r.oneBit = true → v.toNat ≤ 1) : (s.writeCfg r v).regRead n = some (v.setWidth 32) := by
  simp [State.regRead, hn, State.readReg, readCfg_writeCfg s r v hv]

/-- Every other number reads as before (R121). -/
theorem regRead_writeCfg_of_ne {n n' : BitVec 8} {v : BitVec 16} {r : CfgReg} (hn : regAt n = some (.rw r))
    (hne : n' ≠ n) : (s.writeCfg r v).regRead n' = s.regRead n' :=
  regRead_congr fun r' hr' => readReg_writeCfg_of_ne s r v r' fun heq =>
    hne (by rw [← hr', heq, num_of_regAt hn])

/-- Settles O52: the number names an RW register and the value passes its check, so it is written. -/
theorem wrcfgWritesItsRegister : Obligations.WrcfgWritesItsRegister := by
  intro s n v hc hn hv
  obtain ⟨r, hr, hreg, ho⟩ := cfgRegAt_cfg hn
  have hfits : r.oneBit = true → v.toNat ≤ 1 := fun h => hv (ho.1 h)
  refine ⟨s.writeCfg r v, ?_, regRead_writeCfg_same hreg hfits, fun n' hne => regRead_writeCfg_of_ne hreg hne,
    writeCfg_result r v, env_writeCfg (m := .m0) r v, env_writeCfg (m := .m1) r v, writeCfg_calls r v,
    writeCfg_host r v, writeCfg_rst r v⟩
  rw [execWrcfg_configuring hc, writeChecked_of_fits hr hfits]

/-- Settles O53: the number fails WRCFG's first check, or the value its second. -/
theorem wrcfgRefusals : Obligations.WrcfgRefusals := by
  intro s n v hc hbad
  rw [execWrcfg_configuring hc, ← raise_eq_faulted _ hc.1]
  rcases hbad with hn | ⟨hn, hv⟩
  · rw [writeChecked_of_not_rw (cfgRegAt_none n hn)]
  · have hle : ∀ k ∈ [0x0B#8, 0x0C#8, 0x0D#8], k.toNat ≤ 0x0D := by decide
    obtain ⟨r, hr, -, ho⟩ := cfgRegAt_cfg (hle n hn)
    rw [writeChecked_of_too_wide hr (ho.2 hn) hv]

/-- R18, R123: RDREG of a number that names no register raises ILLEGAL_CMD. -/
theorem execRdreg_of_reserved {n : BitVec 8} (hn : regAt n = none) :
    exec (.rdreg n) s = .next (raise (encode (.rdreg n)) .illegalCmd .m0 s) := by
  simp [exec, execRdreg, State.regRead, hn]

/-- Settles O51: the reserved numbers are those that name no register. -/
theorem rdregOfReservedNumbers : Obligations.RdregOfReservedNumbers := by
  intro s n
  rw [← regAt_eq_none_iff]
  refine ⟨fun hn => ⟨fun hh => ?_, fun hh => ?_⟩, fun hn => ?_⟩
  · rw [execRdreg_of_reserved hn, raise_eq_faulted _ hh]
  · rw [execRdreg_of_reserved hn, raise_of_halted _ hh]
  · obtain ⟨r, hr⟩ := Option.ne_none_iff_exists'.1 hn
    exact ⟨s.readReg r, by simp [State.regRead, hr]⟩

/-! ### A step performs the offered word (R14, R15, 60_exceptions.md R131) -/

/-- R131: while `rst` is released an offered word is performed. -/
theorem acceptInput_command (hrst : s.rst = false) : acceptInput (.command w) s = performWord w s := by
  simp [acceptInput, hrst]

/-- Settles O7: the host's item is taken, then its word performed. -/
theorem stepPerformsTheDecodedCommand : Obligations.StepPerformsTheDecodedCommand := by
  intro s w rest i hrst hhost hw
  rw [step_offered hhost, acceptInput_command (s := s.setHost rest) hrst]
  simp only [performWord, hw]

/-! ### The layout of STATUS and of a Command (R29, R38) -/

/-- A field placed above the bits of a word is added to it at its weight. -/
theorem toNat_or_shiftLeft {lo hi : Word} {k : Nat} (hlo : lo.toNat < 2 ^ k) (hhi : hi.toNat * 2 ^ k < 2 ^ 32) :
    (lo ||| hi <<< k).toNat = lo.toNat + 2 ^ k * hi.toNat := by
  rw [BitVec.toNat_or, BitVec.toNat_shiftLeft, Nat.shiftLeft_eq, Nat.mod_eq_of_lt hhi, Nat.or_comm,
    Nat.mul_comm, ← Nat.two_pow_add_eq_or_of_lt hlo, Nat.add_comm]

theorem flagWord_toNat (b : Bool) : (flagWord b).toNat = if b then 1 else 0 := by cases b <;> rfl

theorem flagWord_lt (b : Bool) : (flagWord b).toNat < 2 := by cases b <;> decide

theorem faultMWord_toNat (m : Motor) : (faultMWord m).toNat = if m = .m1 then 1 else 0 := by cases m <;> rfl

theorem code_lt (c : Cause) : c.code.toNat < 6 := by cases c <;> decide

/-- R29: STATUS is its fields at their weights. -/
theorem status_word_toNat (f : Status) : f.word.toNat =
    (if f.run then 1 else 0) + 2 * (if f.halted then 1 else 0) + 4 * (if f.ioErr then 1 else 0) +
      16 * f.cause.code.toNat + 256 * (if f.faultM = .m1 then 1 else 0) := by
  have hrun := flagWord_lt f.run
  have hhalted := flagWord_lt f.halted
  have hio := flagWord_lt f.ioErr
  have hcode := code_lt f.cause
  have hcause : (f.cause.code.setWidth 32).toNat = f.cause.code.toNat := by simp; omega
  have hm : (faultMWord f.faultM).toNat < 2 := by cases f.faultM <;> decide
  have h1 := toNat_or_shiftLeft (lo := flagWord f.run) (hi := flagWord f.halted) (k := 1) (by omega) (by omega)
  have h2 := toNat_or_shiftLeft (lo := flagWord f.run ||| flagWord f.halted <<< 1) (hi := flagWord f.ioErr) (k := 2)
    (by omega) (by omega)
  have h4 := toNat_or_shiftLeft (hi := f.cause.code.setWidth 32) (k := 4) (h2.trans_lt (by omega)) (by omega)
  have h8 := toNat_or_shiftLeft (hi := faultMWord f.faultM) (k := 8) (h4.trans_lt (by omega)) (by omega)
  rw [← flagWord_toNat, ← flagWord_toNat, ← flagWord_toNat, ← faultMWord_toNat, Status.word]
  omega

/-- R38: a delay stands below the kind. -/
theorem kind_or_delay_toNat {k : Word} (d : BitVec 16) (hk : k.toNat < 2 ^ 16) :
    ((k <<< 16) ||| d.setWidth 32).toNat = 2 ^ 16 * k.toNat + d.toNat := by
  have hd : (d.setWidth 32).toNat = d.toNat := by simp; omega
  rw [BitVec.or_comm, toNat_or_shiftLeft (by omega) (by omega), hd, Nat.add_comm]

/-- Settles O50: each field stands above the ones before it, so the word is a sum. -/
theorem statusAndCommandLayout : Obligations.StatusAndCommandLayout :=
  ⟨by decide, status_word_toNat, fun d =>
    ⟨rfl, kind_or_delay_toNat (k := 1#32) d (by decide), kind_or_delay_toNat (k := 2#32) d (by decide)⟩⟩

end Sys2Proof.Machine

/-! ## Words as bytes, the calls of a TICK, and the ROM (spec/20_memory.md) -/

namespace Sys2Proof

/-! ### Words as bytes (R53) -/

/-- R53: the four bytes of a word carry it. -/
theorem wordOfBytes_wordBytes (w : Word) :
    wordOfBytes (w.extractLsb' 0 8) (w.extractLsb' 8 8) (w.extractLsb' 16 8) (w.extractLsb' 24 8) = w := by
  unfold wordOfBytes
  ext i hi
  interval_cases i <;> simp [BitVec.getLsbD_eq_getElem]

/-- R53, R61: the first four bytes of a sequence are decoded as the word they carry. -/
theorem decodeBytes_wordBytes_append (w : Word) (rest : List Byte) :
    decodeBytes (wordBytes w ++ rest) = (decodeWord w, rest) := by
  simp [wordBytes, decodeBytes, wordOfBytes_wordBytes]

/-- Settles O6: the bytes laid out carry the word they came from. -/
theorem bytesDecodeAsTheirWord : Obligations.BytesDecodeAsTheirWord :=
  fun w rest => ⟨decodeBytes_wordBytes_append w rest, rfl⟩

end Sys2Proof

namespace Sys2Proof.Machine

variable {s t u : State} {w : Word} {m : Motor} {c : List EnvCall} {D : Motor → Prop}

/-! ### The calls of a TICK (R58, 42_dispatch.md R110, 60_exceptions.md R138) -/

/-- `c` is what a TICK asks for motor `m`: its sample, with the answer due in `s`, and then perhaps one write. -/
def TickCalls (s : State) (m : Motor) (c : List EnvCall) : Prop :=
  c = [.sampleRead m (s.sampleAnswer m)] ∨ ∃ p ok, c = [.sampleRead m (s.sampleAnswer m), .outWrite m p ok]

theorem TickCalls.motor (h : TickCalls s m c) : ∀ e ∈ c, e.motor = m := by
  rcases h with rfl | ⟨p, ok, rfl⟩ <;> simp [EnvCall.motor]

theorem TickCalls.head? (h : TickCalls s m c) : c.head? = some (.sampleRead m (s.sampleAnswer m)) := by
  rcases h with rfl | ⟨p, ok, rfl⟩ <;> rfl

theorem TickCalls.length_le (h : TickCalls s m c) : c.length ≤ 2 := by
  rcases h with rfl | ⟨p, ok, rfl⟩ <;> simp

theorem TickCalls.writes_of_mem_tail (h : TickCalls s m c) : ∀ e ∈ c.tail, ∃ m p ok, e = .outWrite m p ok := by
  rcases h with rfl | ⟨p, ok, rfl⟩
  · simp
  · exact fun e he => ⟨m, p, ok, by simpa using he⟩

/-- R110: the calls that one motor's part of a TICK puts on record. -/
theorem TickPart.calls {r : Flow Unit} (h : TickPart w m s r) :
    ∃ c, r.final.calls = s.calls ++ c ∧ TickCalls s m c := by
  cases h with
  | sampleHalts | sampleSkipped | outOfRange | waits => exact ⟨_, by simp, .inl rfl⟩
  | stops => exact ⟨_, by simp, .inr ⟨0x0#4, true, rfl⟩⟩
  | stopHalts | stopSkipped => exact ⟨_, by simp, .inr ⟨0x0#4, false, rfl⟩⟩
  | steps => exact ⟨_, by simp, .inr ⟨s.entry m (s.index m), true, rfl⟩⟩
  | stepHalts | stepSkipped => exact ⟨_, by simp, .inr ⟨s.entry m (s.index m), false, rfl⟩⟩

@[simp] theorem advance_calls : (advance m s).calls = s.calls := by simp [advance]

/-- R118: the sample due to the other motor is not touched. -/
theorem TickPart.sampleAnswer_other {r : Flow Unit} (h : TickPart w m s r) :
    r.final.sampleAnswer m.other = s.sampleAnswer m.other := by
  simp [State.sampleAnswer, h.leaves_other]

/-- R110, R138: a TICK makes motor 0's calls, then motor 1's unless motor 0's part ended it. -/
theorem execTick_calls (hr : Running s) (ht : execTick s = .next t) :
    ∃ c0 c1, t.calls = s.calls ++ c0 ++ c1 ∧ TickCalls s .m0 c0 ∧ (c1 = [] ∨ TickCalls s .m1 c1) := by
  have both : ∀ {u r}, TickPart (encode .tick) .m0 s (.cont () u) → tickMotor (encode .tick) .m1 u = .ok r →
      ∃ c0 c1, r.final.calls = s.calls ++ c0 ++ c1 ∧ TickCalls s .m0 c0 ∧ (c1 = [] ∨ TickCalls s .m1 c1) := by
    intro u r h0 h1
    obtain ⟨c0, e0, hc0⟩ := h0.calls
    obtain ⟨c1, e1, hc1⟩ := (tickMotor_part (h0.running hr) h1).calls
    have hs : u.sampleAnswer .m1 = s.sampleAnswer .m1 := h0.sampleAnswer_other
    rw [final_cont] at e0
    exact ⟨c0, c1, by rw [e1, e0], hc0, .inr (by rwa [TickCalls, hs] at hc1)⟩
  rcases execTick_cases hr ht with h0 | ⟨u, h0, h1⟩ | ⟨u, v, h0, h1, rfl⟩
  · obtain ⟨c0, e0, hc0⟩ := h0.calls
    exact ⟨c0, [], by simpa using e0, hc0, .inl rfl⟩
  · exact both h0 h1
  · simpa using both h0 h1

/-- Settles O41: the calls are motor 0's part's, then motor 1's part's if there was one. -/
theorem tickCallsInMotorOrder : Obligations.TickCallsInMotorOrder := by
  intro s t hr ht
  obtain ⟨c0, c1, hcalls, h0, h1⟩ := execTick_calls hr ht
  rcases h1 with rfl | h1
  · exact ⟨c0, [], hcalls, h0.motor, by simp, h0.head?, h0.length_le, by simp, by simp,
      by simpa using h0.writes_of_mem_tail⟩
  · exact ⟨c0, c1, hcalls, h0.motor, h1.motor, h0.head?, h0.length_le, h1.length_le, by simp [h1.head?],
      fun e he => (List.mem_append.1 he).elim (h0.writes_of_mem_tail e) (h1.writes_of_mem_tail e)⟩

/-! ### Every step of a safe state has a next state (R50, 93_implementation_defined.md V6) -/

/-- R32, R99: in a started safe block each motor can carry out whatever its sample decodes to. -/
theorem StartedSafe.canTick (h : StartedSafe D s) (m : Motor) : CanTick s m := fun x _ => by
  obtain ⟨cmd, hd, -⟩ := h.config.decode m x
  exact ⟨cmd, hd, .inr (h.idx m)⟩

/-- R110: so a TICK reads no unpopulated ROM entry, motor 0's part leaving the block safe for motor 1's. -/
theorem StartedSafe.execTick_next (h : StartedSafe D s) (hr : Running s) : ∃ t, execTick s = .next t := by
  obtain ⟨r0, h0⟩ := tickMotor_ok (w := encode .tick) (h.canTick .m0)
  cases r0 with
  | ended t => exact ⟨t, execTick_first hr h0⟩
  | cont _ u =>
    have hu : StartedSafe D u := (tickMotor_part hr h0).startedSafe h
    obtain ⟨r1, h1⟩ := tickMotor_ok (w := encode .tick) (hu.canTick .m1)
    cases r1 with
    | ended t => exact ⟨t, execTick_second hr h0 h1⟩
    | cont _ v => exact ⟨_, execTick_both hr h0 h1⟩

/-- R130, R133: a run-phase command has a next state if its body does where it is performed. -/
theorem inRunPhase_next {body : Except Fault (Flow Unit)} (h : Running s → ∃ t, settle body = .next t) :
    ∃ t, inRunPhase w s body = .next t := by
  rcases phase_cases s with hh | hr | hc
  · exact ⟨s, inRunPhase_halted _ hh⟩
  · rw [inRunPhase_running _ hr]
    exact h hr
  · exact ⟨_, inRunPhase_configuring _ hc⟩

/-- R50, R80: the body of STEPF and STEPB has a next state where the index is in its table. -/
theorem settle_seqStep_next (dir : Dir) (h : s.index m < s.len m) :
    ∃ t, settle (thenTry (seqStep w m dir s) (fun _ t => .ok (.cont () t))) = .next t := by
  rw [seqStep_of_idx dir h]
  cases seqStepWith w m dir (s.entry m (s.index m)) s with
  | cont _ t | ended t => exact ⟨t, rfl⟩

/-- R32, R50: every command of a safe state has a next state. -/
theorem SafeState.exec_next (h : SafeState s) (hrst : s.rst = false) (i : Instr) : ∃ t, exec i s = .next t := by
  cases i with
  | nop | wrcfg | start => exact ⟨_, rfl⟩
  | stepf m => exact inRunPhase_next fun _ => settle_seqStep_next .fwd (h.idx m)
  | stepb m => exact inRunPhase_next fun _ => settle_seqStep_next .back (h.idx m)
  | stop | decode => exact inRunPhase_next fun _ => ⟨_, rfl⟩
  | tick =>
    refine inRunPhase_next fun hr => ?_
    rw [← inRunPhase_running (w := encode .tick) _ hr]
    exact (h.started hr.2 hrst).execTick_next hr
  | rdreg r =>
    change ∃ t, execRdreg r s = .next t
    unfold execRdreg
    cases s.regRead r with
    | some | none => exact ⟨_, rfl⟩

/-- R131: so has every word. -/
theorem SafeState.performWord_next (h : SafeState s) (hrst : s.rst = false) (w : Word) :
    ∃ t, performWord w s = .next t := by
  unfold performWord
  cases decodeWord w with
  | instr i => exact h.exec_next hrst i
  | illegal => exact ⟨_, rfl⟩

/-- R151: while `rst` is released an offered word is cut short. -/
theorem acceptInput_commandCut {k : Nat} (hrst : s.rst = false) :
    acceptInput (.commandCut w k) s = cutCommand w k s := by
  simp [acceptInput, hrst]

/-- R151: a word that has a next state has one when it is cut short, wherever the cut is. -/
theorem cutCommand_next (ht : performWord w s = .next t) (k : Nat) : ∃ u, cutCommand w k s = .next u := by
  simp only [cutCommand, ht]
  exact ⟨_, rfl⟩

/-- R14, R15, R151: in a safe state every item of the host's has a next state. -/
theorem SafeState.acceptInput_next (h : SafeState s) (x : HostInput) : ∃ t, acceptInput x s = .next t := by
  cases x with
  | rst asserted => cases asserted <;> exact ⟨_, rfl⟩
  | command w =>
    cases hrst : s.rst with
    | true => exact ⟨s, by simp [acceptInput, hrst]⟩
    | false =>
      rw [acceptInput_command hrst]
      exact h.performWord_next hrst w
  | commandCut w k =>
    cases hrst : s.rst with
    | true => exact ⟨s, by simp [acceptInput, hrst]⟩
    | false =>
      obtain ⟨t, ht⟩ := h.performWord_next hrst w
      rw [acceptInput_commandCut hrst]
      exact cutCommand_next ht k

/-- Settles O60: an idle step has a next state, and so has every item the host can offer. -/
theorem safeStateAlwaysSteps : Obligations.SafeStateAlwaysSteps := by
  intro s h
  cases hh : s.host with
  | nil => exact ⟨s, step_idle hh⟩
  | cons x rest =>
    rw [step_offered hh]
    exact (h.setHost rest).acceptInput_next x

end Sys2Proof.Machine

/-! ## The encoding (spec/30_encoding.md)

What a word's fields say about the row of the opcode map it matches, and from that what the decoder answers. -/

namespace Sys2Proof

/-! ### The formats, field by field (R63, R65) -/

/-- The operation code of a mnemonic (R65). -/
@[simp] def Mnemonic.op : Mnemonic → BitVec 4
  | .NOP => 0x0#4
  | .STEPF => 0x1#4
  | .STEPB => 0x2#4
  | .STOP => 0x3#4
  | .DECODE => 0x4#4
  | .TICK => 0x5#4
  | .WRCFG => 0x6#4
  | .RDREG => 0x7#4
  | .START => 0x8#4

/-- Whether a mnemonic's format uses the `M` field: formats M and MS (R63). -/
@[simp] def Mnemonic.usesM : Mnemonic → Bool
  | .STEPF | .STEPB | .STOP | .DECODE => true
  | .NOP | .TICK | .WRCFG | .RDREG | .START => false

/-- Whether a mnemonic's format uses the `REG` field: formats RI and R (R63). -/
@[simp] def Mnemonic.usesReg : Mnemonic → Bool
  | .WRCFG | .RDREG => true
  | .NOP | .STEPF | .STEPB | .STOP | .DECODE | .TICK | .START => false

/-- Whether a mnemonic's format uses the `IMM` field: formats MS and RI (R63). -/
@[simp] def Mnemonic.usesImm : Mnemonic → Bool
  | .DECODE | .WRCFG => true
  | .NOP | .STEPF | .STEPB | .STOP | .TICK | .RDREG | .START => false

/-- A word of a mnemonic's format: its operation code, and 0 in `RSV` and in every field the format does not use
(R63, R68). -/
structure Mnemonic.Fits (k : Mnemonic) (w : Word) : Prop where
  op : opOf w = k.op
  rsv : rsvOf w = 0#3
  m : k.usesM = false → mOf w = 0#1
  reg : k.usesReg = false → regOf w = 0#8
  imm : k.usesImm = false → immOf w = 0#16

variable {k k' : Mnemonic} {w : Word} {r r' : OpRow} {i : Instr}

theorem Mnemonic.fits_iff : k.Fits w ↔ opOf w = k.op ∧ rsvOf w = 0#3 ∧ (k.usesM = false → mOf w = 0#1) ∧
    (k.usesReg = false → regOf w = 0#8) ∧ (k.usesImm = false → immOf w = 0#16) :=
  ⟨fun ⟨op, rsv, m, reg, imm⟩ => ⟨op, rsv, m, reg, imm⟩, fun ⟨op, rsv, m, reg, imm⟩ => ⟨op, rsv, m, reg, imm⟩⟩

theorem Mnemonic.op_injective (h : k.op = k'.op) : k = k' := by
  revert h
  cases k <;> cases k' <;> decide

theorem Mnemonic.op_lt (k : Mnemonic) : k.op.toNat < 9 := by cases k <;> decide

/-- R65, R67: an operation code is a mnemonic's or reserved. -/
theorem exists_op_or_reserved (o : BitVec 4) : (∃ k : Mnemonic, o = k.op) ∨ 9 ≤ o.toNat := by
  rcases op_cases o with h | h | h | h | h | h | h | h | h | h
  exacts [.inl ⟨.NOP, h⟩, .inl ⟨.STEPF, h⟩, .inl ⟨.STEPB, h⟩, .inl ⟨.STOP, h⟩, .inl ⟨.DECODE, h⟩, .inl ⟨.TICK, h⟩,
    .inl ⟨.WRCFG, h⟩, .inl ⟨.RDREG, h⟩, .inl ⟨.START, h⟩, .inr h]

/-- A word fits one mnemonic at most: they differ in the operation code. -/
theorem Mnemonic.Fits.unique (h : k.Fits w) (h' : k'.Fits w) : k = k' := op_injective (h.op.symm.trans h'.op)

/-! ### The opcode map (R65) -/

theorem exists_row (k : Mnemonic) : ∃ r ∈ opTable, r.name = k := by cases k <;> decide

theorem row_eq_of_name_eq : ∀ r ∈ opTable, ∀ r' ∈ opTable, r.name = r'.name → r = r' := by decide

/-- R65: to match a row under its mask is to fit the row's format. -/
theorem hits_iff_fits (hr : r ∈ opTable) : r.hits w = true ↔ r.name.Fits w := by
  rw [OpRow.hits, beq_iff_eq, Mnemonic.fits_iff]
  simp only [opTable, List.mem_cons, List.not_mem_nil, or_false] at hr
  obtain rfl | rfl | rfl | rfl | rfl | rfl | rfl | rfl | rfl := hr <;>
    simp only [Mnemonic.op, Mnemonic.usesM, Mnemonic.usesReg, Mnemonic.usesImm, reduceCtorEq, forall_const,
      false_imp_iff, and_true, true_and]
  · exact match_formatN w 0x0#4
  · exact match_formatM w 0x1#4
  · exact match_formatM w 0x2#4
  · exact match_formatM w 0x3#4
  · exact match_formatMS w 0x4#4
  · exact match_formatN w 0x5#4
  · exact match_formatRI w 0x6#4
  · exact match_formatR w 0x7#4
  · exact match_formatN w 0x8#4

/-- Settles O4: both rows' formats hold of the word, so their operation codes agree. -/
theorem noWordMatchesTwoRows : Obligations.NoWordMatchesTwoRows := fun _ r r' hr hr' h h' =>
  row_eq_of_name_eq r hr r' hr' (((hits_iff_fits hr).1 h).unique ((hits_iff_fits hr').1 h'))

/-! ### What the decoder answers (R66 to R68) -/

/-- R66: the row the decoder picks is one the word fits. -/
theorem fits_of_find? (h : opTable.find? (fun r => r.hits w) = some r) : r.name.Fits w :=
  (hits_iff_fits (List.mem_of_find?_eq_some h)).1 (List.find?_some (p := fun r : OpRow => r.hits w) h)

/-- R66: a word of a mnemonic's format decodes to that mnemonic with the word's operands. -/
theorem decodeWord_of_fits (h : k.Fits w) : decodeWord w = .instr (buildInstr k w) := by
  obtain ⟨r, hr, rfl⟩ := exists_row k
  unfold decodeWord
  cases hf : opTable.find? (fun r => r.hits w) with
  | none => exact absurd ((hits_iff_fits hr).2 h) (List.find?_eq_none.1 hf r hr)
  | some r' => simp only [(fits_of_find? hf).unique h]

/-- R66: a word of no mnemonic's format decodes to ILLEGAL. -/
theorem decodeWord_of_not_fits (h : ∀ k : Mnemonic, ¬ k.Fits w) : ∃ why, decodeWord w = .illegal why := by
  unfold decodeWord
  cases hf : opTable.find? (fun r => r.hits w) with
  | none => exact ⟨_, rfl⟩
  | some r => exact absurd (fits_of_find? hf) (h _)

theorem decodeWord_instr_iff : decodeWord w = .instr i ↔ ∃ k : Mnemonic, k.Fits w ∧ buildInstr k w = i := by
  constructor
  · intro h
    by_cases hk : ∃ k : Mnemonic, k.Fits w
    · obtain ⟨k, hk⟩ := hk
      exact ⟨k, hk, Decoded.instr.inj ((decodeWord_of_fits hk).symm.trans h)⟩
    · obtain ⟨why, hwhy⟩ := decodeWord_of_not_fits (not_exists.1 hk)
      cases hwhy.symm.trans h
  · rintro ⟨k, hk, rfl⟩
    exact decodeWord_of_fits hk

theorem decodeWord_illegal_iff : (∃ why, decodeWord w = .illegal why) ↔ ∀ k : Mnemonic, ¬ k.Fits w :=
  ⟨fun ⟨_, hwhy⟩ _ hk => (by cases hwhy.symm.trans (decodeWord_of_fits hk)), decodeWord_of_not_fits⟩

/-! ### The encoder against the decoder (R62, R64, R72) -/

/-- The row of a command (R65). -/
@[simp] def Instr.mnemonic : Instr → Mnemonic
  | .nop => .NOP
  | .stepf _ => .STEPF
  | .stepb _ => .STEPB
  | .stop _ => .STOP
  | .decode _ _ => .DECODE
  | .tick => .TICK
  | .wrcfg _ _ => .WRCFG
  | .rdreg _ => .RDREG
  | .start => .START

/-- R62, R72: the word of a command carries its fields, with `RSV` 0. -/
theorem fields_encode (i : Instr) : Laws.EncodeFields.Statement i := Laws.EncodeFields.fields_of_packWord i rfl

/-- R63, R72: a command's word is of its format. -/
theorem fits_encode (i : Instr) : i.mnemonic.Fits (encode i) := by
  obtain ⟨hop, hrsv, hm, hreg, himm⟩ := fields_encode i
  rw [Mnemonic.fits_iff, hop, hrsv, hm, hreg, himm]
  cases i <;> simp [Instr.op, Instr.mField, Instr.regField, Instr.immField]

/-- R64, R72: the operands read back from a command's word are its own. -/
theorem buildInstr_encode (i : Instr) : buildInstr i.mnemonic (encode i) = i := by
  obtain ⟨-, -, hm, hreg, himm⟩ := fields_encode i
  cases i <;>
    simp [buildInstr, hm, hreg, himm, Instr.mField, Instr.regField, Instr.immField, motorOfBit_bitOfMotor]

/-- Settles O1: a command's word is of its format, and its operands read back are its own. -/
theorem decodeOfEncode : Obligations.DecodeOfEncode := fun i =>
  decodeWord_instr_iff.2 ⟨i.mnemonic, fits_encode i, buildInstr_encode i⟩

/-- R63, R64: the command read from a word of its format has the word's fields. -/
theorem Mnemonic.Fits.fields_buildInstr (h : k.Fits w) : (buildInstr k w).op = opOf w ∧
    (buildInstr k w).mField = mOf w ∧ (buildInstr k w).regField = regOf w ∧ (buildInstr k w).immField = immOf w := by
  obtain ⟨hop, -, hm, hreg, himm⟩ := h
  cases k <;>
    simp_all [buildInstr, Instr.op, Instr.mField, Instr.regField, Instr.immField, bitOfMotor_motorOfBit]

/-- R62: packing those fields gives the word back. -/
theorem Mnemonic.Fits.encode_buildInstr (h : k.Fits w) : encode (buildInstr k w) = w := by
  obtain ⟨hop, hm, hreg, himm⟩ := h.fields_buildInstr
  rw [encode, hop, hm, hreg, himm, packWord_fields w h.rsv]

/-- Settles O2: the word is of the command's format, so its fields are the command's. -/
theorem encodeOfDecode : Obligations.EncodeOfDecode := fun w i h => by
  obtain ⟨k, hk, rfl⟩ := decodeWord_instr_iff.1 h
  exact hk.encode_buildInstr

/-! ### The illegal words (R67, R68) -/

/-- R68: the operation codes whose format marks `M` "must be 0". -/
theorem Mnemonic.op_mem_iff_usesM (k : Mnemonic) :
    k.op ∈ [0x0#4, 0x5#4, 0x6#4, 0x7#4, 0x8#4] ↔ k.usesM = false := by cases k <;> decide

/-- R68: the operation codes whose format marks `REG` "must be 0". -/
theorem Mnemonic.op_mem_iff_usesReg (k : Mnemonic) :
    k.op ∈ [0x0#4, 0x1#4, 0x2#4, 0x3#4, 0x4#4, 0x5#4, 0x8#4] ↔ k.usesReg = false := by cases k <;> decide

/-- R68: the operation codes whose format marks `IMM` "must be 0". -/
theorem Mnemonic.op_mem_iff_usesImm (k : Mnemonic) :
    k.op ∈ [0x0#4, 0x1#4, 0x2#4, 0x3#4, 0x5#4, 0x7#4, 0x8#4] ↔ k.usesImm = false := by cases k <;> decide

/-- R67: a word with a reserved operation code fits no mnemonic. -/
theorem not_fits_of_reserved (h : 9 ≤ (opOf w).toNat) (k : Mnemonic) : ¬ k.Fits w := fun hk => by
  have := k.op_lt
  rw [← hk.op] at this
  omega

/-- R68: a word with a mnemonic's operation code fits none exactly when a field that mnemonic's format marks "must be
0" is set. -/
theorem forall_not_fits_iff (hop : opOf w = k.op) : (∀ k' : Mnemonic, ¬ k'.Fits w) ↔
    rsvOf w ≠ 0#3 ∨ (k.usesM = false ∧ mOf w ≠ 0#1) ∨ (k.usesReg = false ∧ regOf w ≠ 0#8) ∨
      (k.usesImm = false ∧ immOf w ≠ 0#16) := by
  have only_k : (∀ k' : Mnemonic, ¬ k'.Fits w) ↔ ¬ k.Fits w :=
    ⟨fun h => h k, fun h k' hk' => h (Mnemonic.op_injective (hk'.op.symm.trans hop) ▸ hk')⟩
  rw [only_k, Mnemonic.fits_iff]
  simp only [hop, true_and, not_and_or, Classical.not_imp, ne_eq]

end Sys2Proof

namespace Sys2Proof.Machine

variable {s : State} {w : Word}

/-- R131: performing a word that decodes to ILLEGAL raises ILLEGAL_CMD with that word. -/
theorem performWord_of_illegal {why : IllegalReason} (h : decodeWord w = .illegal why) :
    performWord w s = .next (raise w .illegalCmd .m0 s) := by simp only [performWord, h]

/-- Settles O3: a word is ILLEGAL when it fits no mnemonic, which its operation code narrows to one format. -/
theorem illegalWordsExactly : Obligations.IllegalWordsExactly := by
  refine fun w => ⟨?_, fun ⟨why, hwhy⟩ s hh => by rw [performWord_of_illegal hwhy, raise_eq_faulted _ hh]⟩
  rw [decodeWord_illegal_iff]
  obtain ⟨k, hop⟩ | hres := exists_op_or_reserved (opOf w)
  · have hlt : ¬ 9 ≤ k.op.toNat := Nat.not_le.2 k.op_lt
    rw [forall_not_fits_iff hop, hop, k.op_mem_iff_usesM, k.op_mem_iff_usesReg, k.op_mem_iff_usesImm, or_iff_right hlt]
  · exact iff_of_true (not_fits_of_reserved hres) (.inl hres)

/-- Settles O8: the host's item is taken, then ILLEGAL_CMD raised, which leaves a halted block unchanged. -/
theorem stepRefusesIllegalWords : Obligations.StepRefusesIllegalWords := by
  intro s w rest why hrst hhost hwhy
  rw [step_offered hhost, acceptInput_command (s := s.setHost rest) hrst, performWord_of_illegal hwhy]
  exact ⟨fun hh => by rw [raise_eq_faulted (s := s.setHost rest) _ hh],
    fun hh => by rw [raise_of_halted (s := s.setHost rest) _ hh]⟩

end Sys2Proof.Machine

namespace Sys2Proof

/-! ### The worked encodings (R74) -/

/-- R71, R72, R74: the source lines assemble to their words. -/
theorem worked_lines_assemble :
    assembleText ["STEPF 1", "STEPB 0", "STOP 1", "DECODE 0, 810", "DECODE 1, 2000", "WRCFG TICK_Q, 1",
        "WRCFG MODE0, 0", "WRCFG CAL_MIN0, 3000", "RDREG IDX0", "RDREG STATUS"] =
      some [0x11000000#32, 0x20000000#32, 0x31000000#32, 0x4000032A#32, 0x410007D0#32, 0x600A0001#32,
        0x600B0000#32, 0x60020BB8#32, 0x70120000#32, 0x70100000#32] := by decide

/-- Settles O5: fixed lines and words, evaluated. -/
theorem workedEncodings : Obligations.WorkedEncodings := ⟨worked_lines_assemble, by decide⟩

end Sys2Proof

/-! ## The sequencer (spec/40_sequencer.md)

What STEPF, STEPB and STOP do, command by command; walks of steps; then the statements they settle. -/

namespace Sys2Proof.Machine

variable {s t u : State} {w : Word} {m m' : Motor} {i : Instr} {dir : Dir} {len : Nat}

/-! ### The index and the table (R78, 20_memory.md R47 to R49) -/

/-- The direction against `dir`. -/
def Dir.opp : Dir → Dir
  | .fwd => .back
  | .back => .fwd

/-- R78: `next` and `prev` are inverse to each other. -/
theorem nextIndex_opp (dir : Dir) {j : Nat} (h : j < len) : nextIndex dir.opp len (nextIndex dir len j) = j := by
  cases dir with
  | fwd =>
    simp only [nextIndex, Dir.opp]
    obtain hlast | hin : j + 1 = len ∨ j + 1 < len := by omega
    · rw [hlast, Nat.mod_self, Nat.zero_add, Nat.mod_eq_of_lt (by omega)]
      omega
    · rw [Nat.mod_eq_of_lt hin, Nat.add_right_comm, Nat.add_sub_cancel, Nat.add_mod_right, Nat.mod_eq_of_lt h]
  | back =>
    simp only [nextIndex, Dir.opp]
    rw [Nat.mod_add_mod, show j + len - 1 + 1 = j + len by omega, Nat.add_mod_right, Nat.mod_eq_of_lt h]

/-- R78: an index that moves stays in its table. -/
theorem nextIndex_lt (dir : Dir) {j : Nat} (h : j < len) : nextIndex dir len j < len := by
  cases dir <;> exact Nat.mod_lt _ (by omega)

/-- R78: the index register moves as the index does. -/
theorem toNat_moveIdx (dir : Dir) (b : BitVec 1) (v : BitVec 3) :
    (moveIdx dir (lenOf b) v).toNat = nextIndex dir (lenOf b) v.toNat := by
  revert b v
  cases dir <;> decide

/-- R47, R48: neighbouring entries of a table differ. -/
theorem entry_nextIndex_ne (dir : Dir) (h : s.index m < s.len m) :
    s.entry m (nextIndex dir (s.len m) (s.index m)) ≠ s.entry m (s.index m) := by
  unfold State.index State.len at h
  unfold State.entry State.index State.len
  revert h
  generalize (s.chan m).mode = b
  generalize (s.chan m).idx = v
  revert b v
  cases dir <;> decide

/-! ### What a successful step leaves (R80) -/

/-- `s` after a successful step of motor `m`: the entry at the index written, then the index moved. -/
def State.stepped (s : State) (m : Motor) (dir : Dir) : State :=
  (s.wrote m (s.entry m (s.index m)) true (s.entry m (s.index m))).setIdx m (moveIdx dir (s.len m) (s.chan m).idx)

@[simp] theorem index_stepped : (s.stepped m dir).index m = nextIndex dir (s.len m) (s.index m) := by
  simp [State.stepped, State.index, State.len, toNat_moveIdx]

@[simp] theorem len_stepped : (s.stepped m dir).len m = s.len m := by simp [State.stepped, State.len]

@[simp] theorem entry_stepped (j : Nat) : (s.stepped m dir).entry m j = s.entry m j := by
  simp [State.stepped, State.entry]

@[simp] theorem coil_stepped : ((s.stepped m dir).chan m).coil = s.entry m (s.index m) := by simp [State.stepped]

@[simp] theorem calls_stepped :
    (s.stepped m dir).calls = s.calls ++ [.outWrite m (s.entry m (s.index m)) true] := by simp [State.stepped]

theorem Running.stepped (hr : Running s) (m : Motor) (dir : Dir) : Running (s.stepped m dir) := by
  simpa [Running, State.stepped] using hr

/-- The answer listed first is the one given. -/
theorem writeAnswer_of_writes {a : WriteAnswer} {more : List WriteAnswer} (h : (s.env m).writes = a :: more) :
    s.writeAnswer m = a := by simp [State.writeAnswer, MotorEnv.nextWrite, h]

/-- A write uses it up. -/
theorem writes_wrote {a : WriteAnswer} {more : List WriteAnswer} (h : (s.env m).writes = a :: more) (p l : Pattern)
    (ok : Bool) : ((s.wrote m p ok l).env m).writes = more := by simp [MotorEnv.afterWrite, h]

/-- A write uses up no sample. -/
@[simp] theorem afterWrite_samples (e : MotorEnv) : e.afterWrite.samples = e.samples := by
  unfold MotorEnv.afterWrite
  split <;> rfl

/-! ### The three commands in a running block (R82, R84, R86) -/

/-- The command that steps motor `m` in a direction. -/
def Dir.instr (dir : Dir) (m : Motor) : Instr :=
  match dir with
  | .fwd => .stepf m
  | .back => .stepb m

theorem exists_dir_iff : (i = .stepf m ∨ i = .stepb m) ↔ ∃ dir : Dir, i = dir.instr m :=
  ⟨fun h => h.elim (⟨.fwd, ·⟩) (⟨.back, ·⟩), fun ⟨dir, h⟩ => by cases dir <;> simp [h, Dir.instr]⟩

theorem instr_ne_stop (dir : Dir) : dir.instr m ≠ .stop m' := by cases dir <;> simp [Dir.instr]

/-- R82, R84: STEPF and STEPB are a `SeqStep`. -/
theorem exec_step (hr : Running s) (dir : Dir) :
    exec (dir.instr m) s =
      settle (thenTry (seqStep (encode (dir.instr m)) m dir s) fun _ t => .ok (.cont () t)) := by
  cases dir <;> exact inRunPhase_running _ hr

/-- R49, R82, R84: with the index in its table, of the entry there. -/
theorem exec_step_of_idx (hr : Running s) (hi : s.index m < s.len m) (dir : Dir) :
    exec (dir.instr m) s =
      .next (seqStepWith (encode (dir.instr m)) m dir (s.entry m (s.index m)) s).final := by
  rw [exec_step hr, seqStep_of_idx dir hi]
  cases seqStepWith (encode (dir.instr m)) m dir (s.entry m (s.index m)) s <;> rfl

/-- R80: the write succeeding. -/
theorem exec_step_ok (hr : Running s) (hi : s.index m < s.len m) (hw : s.writeAnswer m = .ok) (dir : Dir) :
    exec (dir.instr m) s = .next (s.stepped m dir) := by
  rw [exec_step_of_idx hr hi, seqStepWith_ok _ _ hw]
  rfl

/-- R80: the write failing. -/
theorem exec_step_failed {d : Pattern} (hr : Running s) (hi : s.index m < s.len m)
    (hw : s.writeAnswer m = .failed d) (dir : Dir) :
    exec (dir.instr m) s =
      .next (ioError (encode (dir.instr m)) .ioPin m (s.wrote m (s.entry m (s.index m)) false d)).final := by
  rw [exec_step_of_idx hr hi, seqStepWith_failed _ _ d hw]
  cases ioError (encode (dir.instr m)) .ioPin m (s.wrote m (s.entry m (s.index m)) false d) <;> rfl

/-- R50, R80: a step that has a next state was taken, or failed to be, from an index in the table. -/
theorem exec_step_part (hr : Running s) (h : exec (dir.instr m) s = .next t) :
    ∃ r, StepPart (encode (dir.instr m)) m dir s r ∧ t = r.final := by
  rw [exec_step hr] at h
  cases hx : seqStep (encode (dir.instr m)) m dir s with
  | error f => simp [hx] at h
  | ok r => exact ⟨r, (seqStep_part hr.1 hx).2, by cases r <;> simpa [hx] using h.symm⟩

/-- R86: STOP is a `SeqStop`. -/
theorem exec_stop (hr : Running s) : exec (.stop m) s = .next (seqStop (encode (.stop m)) m s).final :=
  inRunPhase_running _ hr

/-- R79: the write succeeding. -/
theorem exec_stop_ok (hr : Running s) (hw : s.writeAnswer m = .ok) :
    exec (.stop m) s = .next (s.wrote m 0x0#4 true 0x0#4) := by
  rw [exec_stop hr, seqStop_ok hw, final_cont]

/-- Settles O20: STEPF is the step forward. -/
theorem stepfWritesThenMovesForward : Obligations.StepfWritesThenMovesForward :=
  fun _ _ hr hi hw => exec_step_ok hr hi hw .fwd

/-- Settles O21: STEPB is the step back. -/
theorem stepbWritesThenMovesBack : Obligations.StepbWritesThenMovesBack :=
  fun _ _ hr hi hw => exec_step_ok hr hi hw .back

/-- Settles O22: STOP writes 0x0 and goes on. -/
theorem stopForcesCoilsLow : Obligations.StopForcesCoilsLow := fun _ _ hr hw => exec_stop_ok hr hw

/-! ### Walks: steps in a row, all of them successful (R83, R85, R90) -/

/-- The indices that the steps of a walk start from, in a table of `len` entries. -/
def visited (len : Nat) : List Dir → Nat → List Nat
  | [], _ => []
  | dir :: dirs, j => j :: visited len dirs (nextIndex dir len j)

/-- The index a walk ends at. -/
def walkIndex (len : Nat) (dirs : List Dir) (j : Nat) : Nat := dirs.foldl (fun j dir => nextIndex dir len j) j

/-- Successful steps in a row write the entries at the indices they visit, in that order. -/
theorem execList_walk (dirs : List Dir) {more : List WriteAnswer} (hr : Running s) (hi : s.index m < s.len m)
    (hw : (s.env m).writes = List.replicate dirs.length .ok ++ more) :
    ∃ t, execList (dirs.map (·.instr m)) s = .next t ∧ t.index m = walkIndex (s.len m) dirs (s.index m) ∧
      t.calls = s.calls ++
        (visited (s.len m) dirs (s.index m)).map (fun j => .outWrite m (s.entry m j) true) := by
  induction dirs generalizing s with
  | nil => exact ⟨s, rfl, rfl, by simp [visited]⟩
  | cons dir dirs ih =>
    have hstep := exec_step_ok hr hi (writeAnswer_of_writes hw) dir
    have hrest : ((s.stepped m dir).env m).writes = List.replicate dirs.length .ok ++ more := by
      rw [State.stepped, env_setIdx]
      exact writes_wrote hw ..
    obtain ⟨t, ht, hidx, hcalls⟩ := ih (hr.stepped m dir) (by simpa using nextIndex_lt dir hi) hrest
    exact ⟨t, by simp [execList, hstep, ht], by simpa [walkIndex] using hidx, by simpa [visited] using hcalls⟩

/-- R78: a walk forward visits the indices in table order. -/
theorem visited_forward (k : Nat) {j : Nat} (h : j < len) :
    visited len (List.replicate k .fwd) j = (List.range k).map (fun n => (j + n) % len) := by
  induction k generalizing j with
  | zero => rfl
  | succ k ih =>
    rw [List.replicate_succ, visited, ih (nextIndex_lt .fwd h), List.range_succ_eq_map]
    simp [nextIndex, Nat.mod_eq_of_lt h, Function.comp_def, Nat.add_assoc, Nat.add_comm 1]

/-- R78: and ends as many entries on as it has steps. -/
theorem walkIndex_forward (k : Nat) {j : Nat} (h : j < len) :
    walkIndex len (List.replicate k .fwd) j = (j + k) % len := by
  induction k generalizing j with
  | zero => simp [walkIndex, Nat.mod_eq_of_lt h]
  | succ k ih =>
    rw [List.replicate_succ, walkIndex, List.foldl_cons, ← walkIndex, ih (nextIndex_lt .fwd h)]
    simp [nextIndex, Nat.add_assoc, Nat.add_comm 1]

/-- Settles O25: a walk of `LEN(m)` steps forward. -/
theorem cyclicClosure : Obligations.CyclicClosure := by
  intro s m more hr hi hw
  obtain ⟨t, ht, hidx, hcalls⟩ := execList_walk (List.replicate (s.len m) .fwd) hr hi (by simpa using hw)
  rw [walkIndex_forward _ hi, Nat.add_mod_right, Nat.mod_eq_of_lt hi] at hidx
  rw [visited_forward _ hi, List.map_map] at hcalls
  exact ⟨t, by simpa [Dir.instr] using ht, BitVec.eq_of_toNat_eq hidx, hcalls⟩

/-- R85: a step and its opposite come back to the index. -/
theorem execList_inverse {more : List WriteAnswer} (hr : Running s) (hi : s.index m < s.len m)
    (hw : (s.env m).writes = .ok :: .ok :: more) (dir : Dir) :
    ∃ t, execList [dir.instr m, dir.opp.instr m] s = .next t ∧ (t.chan m).idx = (s.chan m).idx ∧
      t.calls = s.calls ++ [.outWrite m (s.entry m (s.index m)) true,
        .outWrite m (s.entry m (nextIndex dir (s.len m) (s.index m))) true] := by
  obtain ⟨t, ht, hidx, hcalls⟩ := execList_walk [dir, dir.opp] hr hi hw
  exact ⟨t, ht, BitVec.eq_of_toNat_eq (hidx.trans (nextIndex_opp dir hi)), hcalls⟩

/-- Settles O26: both orders are a step and its opposite. -/
theorem inverseSteps : Obligations.InverseSteps :=
  fun _ _ _ hr hi hw => ⟨execList_inverse hr hi hw .fwd, execList_inverse hr hi hw .back⟩

/-- R90: the second step of the new direction starts from the index first held. -/
theorem execList_reversal {more : List WriteAnswer} (hr : Running s) (hi : s.index m < s.len m)
    (hw : (s.env m).writes = .ok :: .ok :: .ok :: more) (dir : Dir) :
    ∃ t, execList [dir.instr m, dir.opp.instr m, dir.opp.instr m] s = .next t ∧
      t.calls = s.calls ++ [.outWrite m (s.entry m (s.index m)) true,
        .outWrite m (s.entry m (nextIndex dir (s.len m) (s.index m))) true,
        .outWrite m (s.entry m (s.index m)) true] := by
  obtain ⟨t, ht, -, hcalls⟩ := execList_walk [dir, dir.opp, dir.opp] hr hi hw
  simp only [visited, nextIndex_opp dir hi] at hcalls
  exact ⟨t, ht, hcalls⟩

/-- Settles O27: both directions are a reversal. -/
theorem reversalWritesOneMorePhase : Obligations.ReversalWritesOneMorePhase :=
  fun _ _ _ hr hi hw => ⟨execList_reversal hr hi hw .fwd, execList_reversal hr hi hw .back⟩

/-! ### COIL and the index (R82, R87, R88) -/

/-- R88: the step left the index at the far side of the entry it wrote. -/
theorem exec_step_coil (hr : Running s) (hi : s.index m < s.len m) (hw : s.writeAnswer m = .ok)
    (h : exec (dir.instr m) s = .next t) :
    t.index m < t.len m ∧ (t.chan m).coil = t.entry m (nextIndex dir.opp (t.len m) (t.index m)) := by
  rw [exec_step_ok hr hi hw, Host.Outcome.next.injEq] at h
  subst h
  simp [nextIndex_opp dir hi, nextIndex_lt dir hi]

/-- Settles O29: the entry on the side the step came from. -/
theorem coilLagsTheIndex : Obligations.CoilLagsTheIndex :=
  fun _ _ _ hr hi hw => ⟨exec_step_coil (dir := .fwd) hr hi hw, exec_step_coil (dir := .back) hr hi hw⟩

/-- Settles O30: the second step writes the entry next to the one the first wrote. -/
theorem successiveStepsWriteDifferentPatterns : Obligations.SuccessiveStepsWriteDifferentPatterns := by
  intro s t u m i j hr hi hfirst hsecond hw ht hw' hu
  obtain ⟨dir, rfl⟩ := exists_dir_iff.1 hfirst
  obtain ⟨dir', rfl⟩ := exists_dir_iff.1 hsecond
  rw [exec_step_ok hr hi hw, Host.Outcome.next.injEq] at ht
  subst ht
  rw [exec_step_ok (hr.stepped m dir) (by simpa using nextIndex_lt dir hi) hw', Host.Outcome.next.injEq] at hu
  subst hu
  simpa using entry_nextIndex_ne dir hi

/-- Settles O28: the second STOP finds COIL[m] at the 0x0 it writes. -/
theorem stopIsIdempotent : Obligations.StopIsIdempotent := by
  intro s m more hr hw
  have hr' : Running (s.wrote m 0x0#4 true 0x0#4) := by simpa [Running] using hr
  refine ⟨_, _, exec_stop_ok hr (writeAnswer_of_writes hw),
    exec_stop_ok hr' (writeAnswer_of_writes (writes_wrote hw ..)), by simp, by simp, by simp, ?_, by simp⟩
  apply regRead_eq_of_same
  · intro m'
    by_cases hm : m' = m <;> simp [hm]
  all_goals simp

end Sys2Proof.Machine

namespace Sys2Proof.Machine

variable {s t u : State} {w : Word} {m m' : Motor} {i : Instr} {dir : Dir} {c : List EnvCall}

/-! ### What the three commands leave (R82, R84, R86) -/

/-- R17: a read by a register's own number. -/
theorem regRead_num (r : Reg) : s.regRead r.num = some (s.readReg r) := by simp [State.regRead, regAt_num]

/-- What a pattern write of motor `m`, a move of its index, a fault and an error counted leave between `s` and `t`:
all but COIL[m], IDX[m], the error and fault registers, the motor's pins and answers, and the calls. -/
structure SequencerFrame (m : Motor) (s t : State) : Prop where
  chan : ∃ l v, t.chan m = { s.chan m with coil := l, idx := v }
  chan_of_ne : ∀ m', m' ≠ m → t.chan m' = s.chan m'
  samples : (t.env m).samples = (s.env m).samples
  env_other : t.env m.other = s.env m.other
  minDelay : t.minDelay = s.minDelay
  maxDelay : t.maxDelay = s.maxDelay
  tickQ : t.tickQ = s.tickQ
  ctrl : t.ctrl = s.ctrl
  result : t.result = s.result
  host : t.host = s.host
  rst : t.rst = s.rst

theorem sequencerFrame_wrote (p l : Pattern) (ok : Bool) : SequencerFrame m s (s.wrote m p ok l) := by
  constructor <;> simp +contextual

theorem SequencerFrame.faulted (h : SequencerFrame m s t) (cause : Cause) (m' : Motor) :
    SequencerFrame m s (t.faulted w cause m') := { h with }

theorem SequencerFrame.errorCounted (h : SequencerFrame m s t) : SequencerFrame m s t.errorCounted := { h with }

theorem sequencerFrame_stepped : SequencerFrame m s (s.stepped m dir) := by
  constructor <;> simp +contextual [State.stepped]

/-- Whether motor `m`'s write succeeded or not, `s` and `t` agree as far as the frame goes, and where it did the error
and fault registers agree too. -/
structure SequencerLeaves (m : Motor) (s t : State) : Prop where
  frame : SequencerFrame m s t
  status : s.writeAnswer m = .ok → t.status = s.status
  ioerrCnt : s.writeAnswer m = .ok → t.ioerrCnt = s.ioerrCnt
  faultCmd : s.writeAnswer m = .ok → t.faultCmd = s.faultCmd

theorem StopPart.leaves {r : Flow Unit} (h : StopPart w m s r) : SequencerLeaves m s r.final := by
  cases h with
  | stops => exact ⟨sequencerFrame_wrote .., by simp, by simp, by simp⟩
  | halts l hw => exact ⟨(sequencerFrame_wrote ..).faulted .., by simp [hw], by simp [hw], by simp [hw]⟩
  | skipped l hw => exact ⟨(sequencerFrame_wrote ..).errorCounted, by simp [hw], by simp [hw], by simp [hw]⟩

theorem StepPart.leaves {r : Flow Bool} (h : StepPart w m dir s r) : SequencerLeaves m s r.final := by
  cases h with
  | steps => exact ⟨sequencerFrame_stepped, by simp, by simp, by simp⟩
  | halts l hw => exact ⟨(sequencerFrame_wrote ..).faulted .., by simp [hw], by simp [hw], by simp [hw]⟩
  | skipped l hw => exact ⟨(sequencerFrame_wrote ..).errorCounted, by simp [hw], by simp [hw], by simp [hw]⟩

/-- R82, R84, R86: STEPF, STEPB and STOP leave what a sequencer operation does. -/
theorem exec_leaves (hi : i = .stepf m ∨ i = .stepb m ∨ i = .stop m) (hr : Running s) (h : exec i s = .next t) :
    SequencerLeaves m s t := by
  rw [← or_assoc, exists_dir_iff] at hi
  obtain ⟨dir, rfl⟩ | rfl := hi
  · obtain ⟨r, hp, rfl⟩ := exec_step_part hr h
    exact hp.leaves
  · rw [exec_stop hr, Host.Outcome.next.injEq] at h
    subst h
    exact (seqStop_part hr.1).leaves

/-- R79: STOP leaves the index. -/
theorem exec_stop_idx (hr : Running s) (h : exec (.stop m) s = .next t) : (t.chan m).idx = (s.chan m).idx := by
  rw [exec_stop hr, Host.Outcome.next.injEq] at h
  subst h
  obtain ⟨l, hl⟩ := (seqStop_part hr.1).chan_eq m
  rw [hl]

/-- R17: every register of the map other than COIL[m] and IDX[m] reads as before, where the error and fault registers
do or are left out. -/
theorem SequencerFrame.regRead (h : SequencerFrame m s t) {n : BitVec 8} (hidx : n ≠ numOf 0x12 m)
    (hcoil : n ≠ numOf 0x14 m)
    (herr : n ∉ [0x10#8, 0x11#8, 0x1A#8] ∨
      (t.status = s.status ∧ t.ioerrCnt = s.ioerrCnt ∧ t.faultCmd = s.faultCmd)) :
    t.regRead n = s.regRead n := by
  have hchan : ∀ m', ∃ l v, t.chan m' = { s.chan m' with coil := l, idx := v } := fun m' => by
    by_cases hm' : m' = m
    · exact hm' ▸ h.chan
    · exact ⟨_, _, h.chan_of_ne m' hm'⟩
  refine regRead_congr fun r hn => ?_
  subst hn
  cases r with
  | rw r =>
    cases r with
    | minDelay | maxDelay | tickQ | ctrl => simp [State.readReg, State.readCfg, h.minDelay, h.maxDelay, h.tickQ, h.ctrl]
    | calCenter m' | calThresh m' | calMin m' | calMax m' | mode m' =>
      obtain ⟨l, v, hm'⟩ := hchan m'
      simp [State.readReg, State.readCfg, hm']
  | ro r =>
    cases r with
    | status | ioerrCnt | faultCmd =>
      obtain ⟨hs, hc, hf⟩ := herr.resolve_left (by simp [Reg.num])
      simp [State.readReg, State.readRo, hs, hc, hf]
    | elapsed m' | cmd m' =>
      obtain ⟨l, v, hm'⟩ := hchan m'
      simp [State.readReg, State.readRo, hm']
    | idx m' =>
      have hne : m' ≠ m := fun heq => hidx (heq ▸ rfl)
      simp [State.readReg, State.readRo, h.chan_of_ne m' hne]
    | coil m' =>
      have hne : m' ≠ m := fun heq => hcoil (heq ▸ rfl)
      simp [State.readReg, State.readRo, h.chan_of_ne m' hne]

/-- Settles O24: the frame of a sequencer operation, register by register. -/
theorem sequencerCommandFrame : Obligations.SequencerCommandFrame := by
  intro s t m i hi hr h
  obtain ⟨hf, hstatus, hcnt, hcmd⟩ := exec_leaves hi hr h
  refine ⟨fun n hidx hcoil hn => hf.regRead hidx hcoil (.inl hn),
    fun hw n hidx hcoil => hf.regRead hidx hcoil (.inr ⟨hstatus hw, hcnt hw, hcmd hw⟩), ?_,
    hf.result, hf.env_other, hf.host, hf.rst, hf.samples⟩
  rintro rfl
  have hnum : numOf 0x12 m = (Reg.ro (.idx m)).num := rfl
  simp [hnum, regRead_num, State.readReg, State.readRo, exec_stop_idx hr h]

/-! ### Failed writes (R77, R80, 60_exceptions.md R134, R136) -/

/-- R79, R80: a failed write leaves the draw and raises its I/O error, the index standing. -/
theorem exec_failed_write {d : Pattern} (hr : Running s) (hw : s.writeAnswer m = .failed d)
    (hi : i = .stop m ∨ (s.index m < s.len m ∧ (i = .stepf m ∨ i = .stepb m))) :
    exec i s = .next (ioError (encode i) .ioPin m
      (s.wrote m (if i = .stop m then 0x0#4 else s.entry m (s.index m)) false d)).final := by
  rw [exists_dir_iff] at hi
  obtain rfl | ⟨hx, dir, rfl⟩ := hi
  · rw [exec_stop hr, seqStop_failed hw, if_pos rfl]
  · rw [exec_step_failed hr hx hw, if_neg (instr_ne_stop dir)]

/-- R110: the Command `cmd` asks in `s` for a write of `p`: a Stop of 0x0, a step whose gate is open of the entry at
the index. -/
def AsksWrite (s : State) (m : Motor) (cmd : Command) (p : Pattern) : Prop :=
  (cmd = .stop ∧ p = 0x0#4) ∨
    ∃ dir d, cmd = Dir.command dir d ∧ d.toNat ≤ (s.chan m).elapsed.toNat ∧ s.index m < s.len m ∧
      p = s.entry m (s.index m)

/-- What a failed write of `p`, drawing `l`, leaves of a TICK under HALT that was at motor `m`'s part in `s`. -/
def tickFailed (s : State) (m : Motor) (cmd : Command) (p l : Pattern) : State :=
  ((told m cmd s).wrote m p false l).faulted (encode .tick) .ioPin m

theorem chan_tickFailed_of_ne {cmd : Command} {p l : Pattern} (h : m' ≠ m) :
    (tickFailed s m cmd p l).chan m' = s.chan m' := by simp [tickFailed, h]

theorem env_tickFailed_of_ne {cmd : Command} {p l : Pattern} (h : m' ≠ m) :
    (tickFailed s m cmd p l).env m' = s.env m' := by simp [tickFailed, h]

/-- R132: what recording a fault does to STATUS. -/
theorem faulted_status (cause : Cause) :
    (s.faulted w cause m).status = { s.status with halted := true, cause := cause, faultM := m } := rfl

/-- R110, R136: a motor's part of a TICK that asks for a write which fails under HALT ends there. -/
theorem tickMotor_failed_write {x : BitVec 16} {cmd : Command} {p l : Pattern} (hr : Running s)
    (hp : s.errPolicy = .halt) (hs : s.sampleAnswer m = .ok x) (hd : (s.calib m).decode x = some cmd)
    (hw : s.writeAnswer m = .failed l) (ha : AsksWrite s m cmd p) :
    tickMotor (encode .tick) m s = .ok (.ended (tickFailed s m cmd p l)) := by
  have hact : tickMotor (encode .tick) m s = actOn (encode .tick) m cmd (told m cmd s) := by
    simp only [tickMotor, hs, decodeAndAct, calib_sampleRead, hd, told]
  have hwt : (told m cmd s).writeAnswer m = .failed l := by rwa [writeAnswer_told]
  have hio (p : Pattern) : ioError (encode .tick) .ioPin m ((told m cmd s).wrote m p false l) =
      .ended (tickFailed s m cmd p l) := ioError_halt _ (by simpa using hp) (by simpa using hr.1)
  rw [hact]
  obtain ⟨rfl, rfl⟩ | ⟨dir, d, rfl, hg, hi, rfl⟩ := ha
  · rw [actOn, seqStop_failed hwt, hio]
  · have hgate : gatedStep (encode .tick) m dir d (told m (dir.command d) s) =
        .ok (.ended (tickFailed s m (dir.command d) (s.entry m (s.index m)) l)) := by
      rw [gatedStep, if_pos (by simpa using hg), seqStep_of_idx dir (by simpa using hi),
        seqStepWith_failed _ _ l hwt, hio, entry_told, index_told]
      rfl
    cases dir <;> exact hgate

@[simp] theorem delay_command (d : BitVec 16) : (dir.command d).delay = d := by cases dir <;> rfl

theorem delay_eq_of_command_eq {dir' : Dir} {d d' : BitVec 16} (h : dir.command d = dir'.command d') : d = d' := by
  simpa using congrArg Command.delay h

theorem command_ne_stop (d : BitVec 16) : dir.command d ≠ .stop := by cases dir <;> simp [Dir.command]

/-- Where every call for a motor succeeds, the write that its Command asks for does. -/
theorem CallsSucceed.writeAnswer {x y : BitVec 16} {cmd : Command} (h : CallsSucceed s m y)
    (hs : s.sampleAnswer m = .ok x) (hd : (s.calib m).decode x = some cmd)
    (hdue : ∀ dir d, cmd = Dir.command dir d → d.toNat ≤ (s.chan m).elapsed.toNat) : s.writeAnswer m = .ok := by
  obtain ⟨hy, hok | ⟨dir, d, hd', hg⟩⟩ := h
  · exact hok
  · rw [hs, SampleAnswer.ok.injEq] at hy
    rw [← hy, hd, Option.some.injEq] at hd'
    exact absurd (hdue dir d hd') (Nat.not_le.2 hg)

/-- R110: and its part of a TICK goes on, with no error or fault recorded. -/
theorem TickPart.succeeds {x : BitVec 16} {r : Flow Unit} (h : TickPart w m s r) (hc : CanTick s m)
    (hx : CallsSucceed s m x) : ∃ u, r = .cont () u ∧ u.status = s.status ∧ u.ioerrCnt = s.ioerrCnt := by
  cases h with
  | sampleHalts h | sampleSkipped h => simp [hx.1] at h
  | outOfRange y h hd =>
    obtain ⟨cmd, hd', -⟩ := hc y h
    simp [hd] at hd'
  | stops | waits | steps => exact ⟨_, rfl, by simp, by simp⟩
  | stopHalts y l h hd hw | stopSkipped y l h hd hw =>
    have := hx.writeAnswer h hd fun dir d hcmd => absurd hcmd.symm (command_ne_stop d)
    simp [hw] at this
  | stepHalts y d dir l h hd hg _ hw | stepSkipped y d dir l h hd hg _ hw =>
    have := hx.writeAnswer h hd fun dir' d' hcmd => delay_eq_of_command_eq hcmd ▸ hg
    simp [hw] at this

/-- A TICK from `s` has come to motor `m`'s part in `u`, having made the calls `c`, with no error or fault recorded. -/
structure TickReaches (s u : State) (m : Motor) (c : List EnvCall) : Prop where
  running : Running u
  chan : u.chan m = s.chan m
  env : u.env m = s.env m
  calib : u.calib m = s.calib m
  errPolicy : u.errPolicy = s.errPolicy
  status : u.status = s.status
  ioerrCnt : u.ioerrCnt = s.ioerrCnt
  result : u.result = s.result
  host : u.host = s.host
  rst : u.rst = s.rst
  calls : u.calls = s.calls ++ c

theorem TickReaches.refl (hr : Running s) (m : Motor) : TickReaches s s m [] :=
  ⟨hr, rfl, rfl, rfl, rfl, rfl, rfl, rfl, rfl, rfl, by simp⟩

/-- R110: the part of a motor for which every call succeeds leads to the other motor's. -/
theorem TickPart.reaches_other {x : BitVec 16} {r : Flow Unit} (h : TickPart w m s r) (hr : Running s)
    (hc : CanTick s m) (hx : CallsSucceed s m x) :
    ∃ u c, r = .cont () u ∧ TickReaches s u m.other c ∧
      ∀ t : State, t.chan m = u.chan m → t.env m = u.env m → MotorTicked s t m 0 c := by
  obtain ⟨u, rfl, hstatus, hcnt⟩ := h.succeeds hc hx
  obtain ⟨c, hcalls, -⟩ := h.ticked (t := u) (q := 0) (by decide) (by simp) rfl
  obtain ⟨hmin, hmax, -, hctrl, hrst, hhost, hresult, -⟩ := h.keeps
  obtain ⟨hchan, henv⟩ := h.leaves_other
  simp only [final_cont] at hmin hmax hctrl hrst hhost hresult hchan henv
  refine ⟨u, c, rfl, ⟨h.running hr, hchan, henv, by simp [State.calib, hchan, hmin, hmax],
    by simp [State.errPolicy, hctrl], hstatus, hcnt, hresult, hhost, hrst, hcalls⟩, fun t ht he => ?_⟩
  obtain ⟨c', hcalls', hticked, -⟩ := h.ticked (t := t) (q := 0) (by decide) (by simpa using ht) he
  rw [hcalls, List.append_cancel_left_eq] at hcalls'
  exact hcalls' ▸ hticked

/-- R134, R140: the TICK ends at motor `m`'s failed write, from wherever motor `m`'s part began. -/
theorem TickReaches.tickMotor {x : BitVec 16} {cmd : Command} {p l : Pattern} (h : TickReaches s u m c)
    (hp : s.errPolicy = .halt) (hs : s.sampleAnswer m = .ok x) (hd : (s.calib m).decode x = some cmd)
    (hw : s.writeAnswer m = .failed l) (ha : AsksWrite s m cmd p) :
    tickMotor (encode .tick) m u = .ok (.ended (tickFailed u m cmd p l)) :=
  tickMotor_failed_write h.running (h.errPolicy.trans hp) (by rwa [State.sampleAnswer, h.env])
    (by rwa [h.calib]) (by rwa [State.writeAnswer, h.env])
    (by simpa only [AsksWrite, State.index, State.len, State.entry, h.chan] using ha)

/-- R134: what that end leaves, motor `m`'s counter and index standing. -/
theorem TickReaches.leaves {x : BitVec 16} {cmd : Command} {p l : Pattern} (h : TickReaches s u m c)
    (hs : s.sampleAnswer m = .ok x) (ht : t = tickFailed u m cmd p l) :
    t.status = { s.status with halted := true, cause := .ioPin, faultM := m } ∧ t.faultCmd = encode .tick ∧
    t.chan m = { s.chan m with cmd := cmd, coil := l } ∧
    t.env m = { (s.env m).afterSample.afterWrite with pins := l } ∧
    t.calls = s.calls ++ c ++ [.sampleRead m (.ok x), .outWrite m p false] ∧
    t.ioerrCnt = s.ioerrCnt ∧ t.result = s.result ∧ t.host = s.host ∧ t.rst = s.rst := by
  have hs' : u.sampleAnswer m = .ok x := by rwa [State.sampleAnswer, h.env]
  subst ht
  simp [tickFailed, faulted_status, h.status, h.chan, h.env, h.calls, hs', h.ioerrCnt, h.result, h.host, h.rst]

/-- Settles O23: by command and policy; and for a TICK by motor, motor 1's part being reached through motor 0's. -/
theorem failedPatternWrite : Obligations.FailedPatternWrite := by
  refine ⟨fun s m d i hr hw hi => ⟨fun hp => ?_, fun hp => ?_⟩,
    fun s m x y cmd p l hr hp hs hd hw ha hfirst => ?_⟩
  · rw [exec_failed_write hr hw hi, ioError_halt _ (by simpa using hp) (by simpa using hr.1), final_ended]
  · rw [exec_failed_write hr hw hi, ioError_skip _ (by simpa using hp), final_cont]
  · cases m with
    | m0 =>
      have h := TickReaches.refl hr .m0
      obtain ⟨hstatus, hcmd, hchan, henv, hcalls, hrest⟩ := h.leaves (cmd := cmd) (p := p) (l := l) hs rfl
      exact ⟨_, [], execTick_first hr (h.tickMotor hp hs hd hw ha), hstatus, hcmd, hchan, henv, hcalls,
        fun _ => ⟨rfl, chan_tickFailed_of_ne (by decide), env_tickFailed_of_ne (by decide)⟩,
        fun hm => by simp at hm, hrest⟩
    | m1 =>
      obtain ⟨hcan, hsucceed⟩ := hfirst rfl
      obtain ⟨r, hr0⟩ := tickMotor_ok (w := encode .tick) hcan
      obtain ⟨u, c, rfl, h, hticked⟩ := (tickMotor_part hr hr0).reaches_other hr hcan hsucceed
      obtain ⟨hstatus, hcmd, hchan, henv, hcalls, hrest⟩ := h.leaves (cmd := cmd) (p := p) (l := l) hs rfl
      exact ⟨_, c, execTick_second hr hr0 (h.tickMotor hp hs hd hw ha), hstatus, hcmd, hchan, henv, hcalls,
        fun hm => by simp at hm,
        fun _ => hticked _ (chan_tickFailed_of_ne (by decide)) (env_tickFailed_of_ne (by decide)), hrest⟩

end Sys2Proof.Machine

/-! ## The joystick decoder (spec/41_decoder.md)

The map from a part of a range to a delay; which of the three zones a sample falls in, and what the decoder makes of it
there; the laws of the decoder; DECODE over the natural numbers. -/

namespace Sys2Proof.Machine

variable {s : State} {m : Motor} {k : Calib} {x y : BitVec 16} {cmd : Command} {v : Int}

/-! ### The map from a part `a` of a range `b` to a delay (R96 to R98) -/

/-- R96 to R98: `dmin` at part 0 of the range, `dmax` at the whole of it, the quotient truncated, and the floor. -/
def mappedDelay (dmin dmax a b : Int) : Int := max (dmin + (a * (dmax - dmin)).tdiv b) dmin

theorem forwardDelay_eq_mappedDelay (k : Calib) (v : Int) :
    k.forwardDelay v = mappedDelay k.dmin k.dmax (v - k.lo) (k.c - k.lo) := rfl

theorem backwardDelay_eq_mappedDelay (k : Calib) (v : Int) :
    k.backwardDelay v = mappedDelay k.dmin k.dmax (k.hi - v) (k.hi - k.c) := rfl

theorem mappedDelay_zero (dmin dmax b : Int) : mappedDelay dmin dmax 0 b = dmin := by simp [mappedDelay]

/-- R98: with the delay bounds in order the floor changes nothing. -/
theorem mappedDelay_eq_ediv {dmin dmax a b : Int} (ha : 0 ≤ a) (hb : 0 < b) (hd : dmin ≤ dmax) :
    mappedDelay dmin dmax a b = dmin + a * (dmax - dmin) / b := by
  have hprod : 0 ≤ a * (dmax - dmin) := Int.mul_nonneg ha (by omega)
  have hquot : 0 ≤ a * (dmax - dmin) / b := Int.ediv_nonneg hprod hb.le
  rw [mappedDelay, Int.tdiv_eq_ediv_of_nonneg hprod]
  omega

/-- With the delay bounds the other way round only the floor is left. -/
theorem mappedDelay_eq_floor {dmin dmax a b : Int} (ha : 0 ≤ a) (hb : 0 < b) (hd : dmax ≤ dmin) :
    mappedDelay dmin dmax a b = dmin := by
  have hprod : a * (dmax - dmin) ≤ 0 := Int.mul_nonpos_of_nonneg_of_nonpos ha (by omega)
  have hquot : (a * (dmax - dmin)).tdiv b ≤ 0 := by simpa using Int.tdiv_le_tdiv hb hprod
  rw [mappedDelay]
  omega

/-- The map over the natural numbers, where a difference below 0 is 0. -/
theorem mappedDelay_natCast (dmin dmax a : Nat) {b : Nat} (hb : 0 < b) :
    mappedDelay dmin dmax a b = ((dmin + a * (dmax - dmin) / b : Nat) : Int) := by
  obtain hd | hd := le_total dmin dmax
  · rw [mappedDelay_eq_ediv (by omega) (by omega) (by omega)]
    push_cast [hd]
    rfl
  · rw [mappedDelay_eq_floor (by omega) (by omega) (by omega), Nat.sub_eq_zero_of_le hd]
    simp

/-- R101: a proper part of the range gives a delay within the bounds, and below the upper one where they differ. -/
theorem mappedDelay_range {dmin dmax a b : Int} (ha : 0 ≤ a) (hab : a < b) (hd : dmin ≤ dmax) :
    dmin ≤ mappedDelay dmin dmax a b ∧ mappedDelay dmin dmax a b ≤ dmax ∧
    (dmin < dmax → mappedDelay dmin dmax a b ≤ dmax - 1) ∧ (dmax = dmin → mappedDelay dmin dmax a b = dmin) := by
  obtain ⟨hge, hle⟩ : dmin ≤ mappedDelay dmin dmax a b ∧ mappedDelay dmin dmax a b ≤ dmax :=
    scaled_within ha hab.le (by omega) hd
  refine ⟨hge, hle, fun hlt => ?_, fun heq => by omega⟩
  have hquot : a * (dmax - dmin) / b < dmax - dmin := by
    refine Int.ediv_lt_of_lt_mul (by omega) ?_
    rw [Int.mul_comm (dmax - dmin) b]
    exact Int.mul_lt_mul_of_pos_right hab (by omega)
  rw [mappedDelay_eq_ediv ha (by omega) hd]
  omega

/-- R103: a larger part of the range gives no smaller a delay. -/
theorem mappedDelay_mono {dmin dmax a a' b : Int} (haa : a ≤ a') (hb : 0 < b) (hd : dmin ≤ dmax) :
    mappedDelay dmin dmax a b ≤ mappedDelay dmin dmax a' b := by
  have hprod : a * (dmax - dmin) ≤ a' * (dmax - dmin) := Int.mul_le_mul_of_nonneg_right haa (by omega)
  have hquot := Int.tdiv_le_tdiv hb hprod
  unfold mappedDelay
  omega

/-! ### The three zones of a clamped sample (R94 to R100) -/

theorem Calib.clamp_of_mem (hlo : k.lo ≤ v) (hhi : v ≤ k.hi) : k.clamp v = v := by
  unfold Calib.clamp
  omega

theorem Calib.clamp_of_le_lo (h : k.lo ≤ k.hi) (hv : v ≤ k.lo) : k.clamp v = k.lo := by
  unfold Calib.clamp
  omega

theorem Calib.clamp_of_hi_le (hv : k.hi ≤ v) : k.clamp v = k.hi := by
  unfold Calib.clamp
  omega

theorem Calib.command_deadZone (h : k.c - k.t ≤ v) (h' : v ≤ k.c + k.t) : k.command v = .stop := if_pos ⟨h, h'⟩

theorem Calib.command_below (ht : 0 ≤ k.t) (h : v < k.c - k.t) :
    k.command v = .forward (BitVec.ofInt 16 (k.forwardDelay v)) := by
  rw [Calib.command, if_neg (by omega), if_pos (by omega)]

theorem Calib.command_above (ht : 0 ≤ k.t) (h : k.c + k.t < v) :
    k.command v = .backward (BitVec.ofInt 16 (k.backwardDelay v)) := by
  rw [Calib.command, if_neg (by omega), if_neg (by omega)]

/-- R99: with the bounds in order the clamped sample is decoded. -/
theorem Calib.decode_of_le (h : k.lo ≤ k.hi) (x : BitVec 16) : k.decode x = some (k.command (k.clamp (zOf x))) := by
  obtain ⟨hlo, hhi⟩ := Calib.clamp_mem h (zOf x)
  exact if_neg (by omega)

/-- R99: with the bounds the wrong way round every clamped sample is below `lo`. -/
theorem Calib.decode_of_lt (h : k.hi < k.lo) (x : BitVec 16) : k.decode x = none := by
  refine if_pos (.inl ?_)
  unfold Calib.clamp
  omega

theorem Calib.Valid.lo_le_hi (hk : k.Valid) : k.lo ≤ k.hi := by omega

/-- R94, R96: a sample from `lo` up to the dead zone gives Forward. -/
theorem Calib.decode_below (hk : k.Valid) (hlo : k.lo ≤ zOf x) (hx : zOf x < k.c - k.t) :
    k.decode x = some (.forward (BitVec.ofInt 16 (k.forwardDelay (zOf x)))) := by
  rw [Calib.decode_of_le hk.lo_le_hi, Calib.clamp_of_mem hlo (by omega), Calib.command_below (by omega) hx]

/-- R94, R97: a sample from the dead zone up to `hi` gives Backward. -/
theorem Calib.decode_above (hk : k.Valid) (hx : k.c + k.t < zOf x) (hhi : zOf x ≤ k.hi) :
    k.decode x = some (.backward (BitVec.ofInt 16 (k.backwardDelay (zOf x)))) := by
  rw [Calib.decode_of_le hk.lo_le_hi, Calib.clamp_of_mem (by omega) hhi, Calib.command_above (by omega) hx]

/-- What the decoder answers under a valid calibration: Stop, a Forward from between `lo` and the dead zone, or a
Backward from between the dead zone and `hi`. -/
theorem Calib.decode_cases (hk : k.Valid) (h : k.decode x = some cmd) :
    cmd = .stop ∨
    (∃ v, k.lo ≤ v ∧ v < k.c - k.t ∧ cmd = .forward (BitVec.ofInt 16 (k.forwardDelay v))) ∨
    (∃ v, k.c + k.t < v ∧ v ≤ k.hi ∧ cmd = .backward (BitVec.ofInt 16 (k.backwardDelay v))) := by
  rw [Calib.decode_of_le hk.lo_le_hi, Option.some.injEq] at h
  subst h
  obtain ⟨hlo, hhi⟩ := Calib.clamp_mem hk.lo_le_hi (zOf x)
  obtain hbelow | habove | ⟨hge, hle⟩ : k.clamp (zOf x) < k.c - k.t ∨ k.c + k.t < k.clamp (zOf x) ∨
      (k.c - k.t ≤ k.clamp (zOf x) ∧ k.clamp (zOf x) ≤ k.c + k.t) := by omega
  · exact .inr (.inl ⟨_, hlo, hbelow, Calib.command_below (by omega) hbelow⟩)
  · exact .inr (.inr ⟨_, habove, hhi, Calib.command_above (by omega) habove⟩)
  · exact .inl (Calib.command_deadZone hge hle)

/-! ### The delays of the two maps (R101, R103) -/

/-- R101: the Forward delay between `lo` and the dead zone fits in 16 bits. -/
theorem zOf_forwardDelay (hk : k.Valid) (hlo : k.lo ≤ v) (hv : v < k.c - k.t) :
    zOf (BitVec.ofInt 16 (k.forwardDelay v)) = mappedDelay k.dmin k.dmax (v - k.lo) (k.c - k.lo) := by
  obtain ⟨hge, hle, -⟩ := mappedDelay_range (a := v - k.lo) (b := k.c - k.lo) (dmin := k.dmin) (dmax := k.dmax)
    (by omega) (by omega) (by omega)
  exact toNat_ofInt_delay (by rw [forwardDelay_eq_mappedDelay]; omega) (by rw [forwardDelay_eq_mappedDelay]; omega)

/-- R101: the Backward delay between the dead zone and `hi` fits in 16 bits. -/
theorem zOf_backwardDelay (hk : k.Valid) (hv : k.c + k.t < v) (hhi : v ≤ k.hi) :
    zOf (BitVec.ofInt 16 (k.backwardDelay v)) = mappedDelay k.dmin k.dmax (k.hi - v) (k.hi - k.c) := by
  obtain ⟨hge, hle, -⟩ := mappedDelay_range (a := k.hi - v) (b := k.hi - k.c) (dmin := k.dmin) (dmax := k.dmax)
    (by omega) (by omega) (by omega)
  exact toNat_ofInt_delay (by rw [backwardDelay_eq_mappedDelay]; omega) (by rw [backwardDelay_eq_mappedDelay]; omega)

/-- Settles O33: outside the dead zone a sample is a proper part of its side of the centre. -/
theorem decodedDelayInRange : Obligations.DecodedDelayInRange := fun k x cmd hk h hstop => by
  obtain rfl | ⟨v, hlo, hv, rfl⟩ | ⟨v, hv, hhi, rfl⟩ := Calib.decode_cases hk h
  · exact absurd rfl hstop
  · rw [Command.delay, zOf_forwardDelay hk hlo hv]
    exact mappedDelay_range (by omega) (by omega) (by omega)
  · rw [Command.delay, zOf_backwardDelay hk hv hhi]
    exact mappedDelay_range (by omega) (by omega) (by omega)

/-- Settles O34: such a sample is clamped to the bound, which is part 0 of its side of the centre. -/
theorem decoderEndpoints : Obligations.DecoderEndpoints := fun k x hk => by
  refine ⟨fun hx => ?_, fun hx => ?_⟩
  · rw [Calib.decode_of_le hk.lo_le_hi, Calib.clamp_of_le_lo hk.lo_le_hi hx]
    split
    · rw [Calib.command_deadZone (by omega) (by omega)]
    · rw [Calib.command_below (by omega) (by omega), forwardDelay_eq_mappedDelay, sub_self, mappedDelay_zero]
  · rw [Calib.decode_of_le hk.lo_le_hi, Calib.clamp_of_hi_le hx]
    split
    · rw [Calib.command_deadZone (by omega) (by omega)]
    · rw [Calib.command_above (by omega) (by omega), backwardDelay_eq_mappedDelay, sub_self, mappedDelay_zero]

/-- Settles O35: on either side of the dead zone the map is monotone in the distance from the bound. -/
theorem decoderMonotone : Obligations.DecoderMonotone := fun k x y hk hxy => by
  refine ⟨fun hlo hy => ⟨_, _, Calib.decode_below hk hlo (by omega), Calib.decode_below hk (by omega) hy, ?_⟩,
    fun hx hhi => ⟨_, _, Calib.decode_above hk hx (by omega), Calib.decode_above hk (by omega) hhi, ?_⟩⟩
  · rw [zOf_forwardDelay hk hlo (by omega), zOf_forwardDelay hk (by omega) hy]
    exact mappedDelay_mono (by omega) (by omega) (by omega)
  · rw [zOf_backwardDelay hk (by omega) hhi, zOf_backwardDelay hk hx (by omega)]
    exact mappedDelay_mono (by omega) (by omega) (by omega)

/-- R104: a Forward needs room between `lo` and the dead zone. -/
theorem lo_lt_of_decode_forward {d : BitVec 16} (hk : k.Valid) (h : k.decode x = some (.forward d)) :
    k.lo < k.c - k.t := by
  obtain hcmd | ⟨v, hlo, hv, -⟩ | ⟨v, -, -, hcmd⟩ := Calib.decode_cases hk h
  · cases hcmd
  · omega
  · cases hcmd

/-- R104: a Backward needs room between the dead zone and `hi`. -/
theorem lt_hi_of_decode_backward {d : BitVec 16} (hk : k.Valid) (h : k.decode x = some (.backward d)) :
    k.c + k.t < k.hi := by
  obtain hcmd | ⟨v, -, -, hcmd⟩ | ⟨v, hv, hhi, -⟩ := Calib.decode_cases hk h
  · cases hcmd
  · cases hcmd
  · omega

/-- R104, R126: the threshold is no part of what makes a configuration valid. -/
theorem configValid_setChan_calThresh (h : s.ConfigValid) (t : BitVec 16) :
    (s.setChan m { s.chan m with calThresh := t }).ConfigValid := by
  cases m <;> exact h

/-- Settles O36: neither side has the room its Command needs, and the threshold is not checked. -/
theorem degenerateDeadZone : Obligations.DegenerateDeadZone :=
  ⟨fun _ _ _ hk => ⟨fun hreach h => hreach.not_gt (lo_lt_of_decode_forward hk h),
    fun hreach h => hreach.not_gt (lt_hi_of_decode_backward hk h)⟩,
    fun _ _ t h => configValid_setChan_calThresh h t⟩

/-- Settles O37: four samples evaluated. -/
theorem referenceScenario : Obligations.ReferenceScenario := by
  unfold Obligations.ReferenceScenario
  decide

/-! ### DECODE, and its result over the natural numbers (R105, R38) -/

/-- R105: in the run phase DECODE is the decoding of its sample. -/
theorem exec_decode (hr : Running s) :
    exec (.decode m x) s = .next (decodeToResult (encode (.decode m x)) m x s).final :=
  inRunPhase_running _ hr

/-- R105: a sample that decodes leaves its Command in RESULT. -/
theorem exec_decode_some (hr : Running s) (h : (s.calib m).decode x = some cmd) :
    exec (.decode m x) s = .next (s.setResult cmd.word) := by
  rw [exec_decode hr, decodeToResult, h, final_cont]

/-- R99: a sample that does not decode records LOGIC_RANGE. -/
theorem exec_decode_none (hr : Running s) (h : (s.calib m).decode x = none) :
    exec (.decode m x) s = .next (s.faulted (encode (.decode m x)) .logicRange m) := by
  rw [exec_decode hr, decodeToResult, h, raise_eq_faulted _ hr.1, final_ended]

/-- Settles O32: no sample decodes there. -/
theorem decodeRecordsLogicRange : Obligations.DecodeRecordsLogicRange := fun _ _ x hr h =>
  exec_decode_none hr (Calib.decode_of_lt (Int.ofNat_lt.2 h) x)

/-- The inputs of the decoder, given as natural numbers. -/
def natCalib (c t lo hi dmin dmax : Nat) : Calib := ⟨c, t, lo, hi, dmin, dmax⟩

theorem calib_eq_natCalib (s : State) (m : Motor) :
    s.calib m = natCalib (s.chan m).calCenter.toNat (s.chan m).calThresh.toNat (s.chan m).calMin.toNat
      (s.chan m).calMax.toNat s.minDelay.toNat s.maxDelay.toNat := rfl

/-- R38: a kind above a delay that fits in 16 bits. -/
theorem kind_or_ofInt {kind : Word} {d : Nat} (hkind : kind.toNat < 2 ^ 16) (hd : d < 2 ^ 16) :
    (kind <<< 16) ||| (BitVec.ofInt 16 d).setWidth 32 = BitVec.ofNat 32 (2 ^ 16 * kind.toNat + d) := by
  apply BitVec.eq_of_toNat_eq
  rw [kind_or_delay_toNat _ hkind, BitVec.ofInt_natCast, BitVec.toNat_ofNat, BitVec.toNat_ofNat,
    Nat.mod_eq_of_lt hd, Nat.mod_eq_of_lt (by omega)]

/-- R101: a part of a range maps to a delay that fits in 16 bits. -/
theorem mapped_lt {dmin dmax a b : Nat} (hab : a ≤ b) (hmin : dmin < 2 ^ 16) (hmax : dmax < 2 ^ 16) :
    dmin + a * (dmax - dmin) / b < 2 ^ 16 := by
  have hquot : a * (dmax - dmin) / b ≤ dmax - dmin := Nat.div_le_of_le_mul (Nat.mul_le_mul_right _ hab)
  omega

/-- R96: the Forward map over the natural numbers. -/
theorem forwardDelay_natCalib {c t lo hi dmin dmax v : Nat} (hlo : lo ≤ v) (hv : v < c) :
    (natCalib c t lo hi dmin dmax).forwardDelay v = ((dmin + (v - lo) * (dmax - dmin) / (c - lo) : Nat) : Int) := by
  rw [forwardDelay_eq_mappedDelay, ← mappedDelay_natCast _ _ _ (by omega), Nat.cast_sub hlo, Nat.cast_sub (by omega)]
  rfl

/-- R97: the Backward map over the natural numbers. -/
theorem backwardDelay_natCalib {c t lo hi dmin dmax v : Nat} (hv : c < v) (hhi : v ≤ hi) :
    (natCalib c t lo hi dmin dmax).backwardDelay v = ((dmin + (hi - v) * (dmax - dmin) / (hi - c) : Nat) : Int) := by
  rw [backwardDelay_eq_mappedDelay, ← mappedDelay_natCast _ _ _ (by omega), Nat.cast_sub hhi, Nat.cast_sub (by omega)]
  rfl

/-- R95 to R98, R38: the word of a clamped sample's Command is the one that `decodeSpec` works out. -/
theorem command_word_eq_decodeSpec {c t lo hi dmin dmax x v : Nat} (h : lo ≤ hi) (hv : v = min (max x lo) hi)
    (hmin : dmin < 2 ^ 16) (hmax : dmax < 2 ^ 16) :
    ((natCalib c t lo hi dmin dmax).command v).word = BitVec.ofNat 32 (decodeSpec c t lo hi dmin dmax x) := by
  have hlo : lo ≤ v := by omega
  have hhi : v ≤ hi := by omega
  have hc : (natCalib c t lo hi dmin dmax).c = c := rfl
  have ht : (natCalib c t lo hi dmin dmax).t = t := rfl
  rw [decodeSpec, ← hv]
  obtain hbelow | habove | hdead : v + t < c ∨ c + t < v ∨ (c ≤ v + t ∧ v ≤ c + t) := by omega
  · rw [if_neg (by omega), if_pos (by omega), Calib.command_below (by omega) (by omega),
      forwardDelay_natCalib hlo (by omega)]
    exact kind_or_ofInt (kind := 1#32) (by decide) (mapped_lt (by omega) hmin hmax)
  · rw [if_neg (by omega), if_neg (by omega), Calib.command_above (by omega) (by omega),
      backwardDelay_natCalib (by omega) hhi]
    exact kind_or_ofInt (kind := 2#32) (by decide) (mapped_lt (by omega) hmin hmax)
  · rw [if_pos hdead, Calib.command_deadZone (by omega) (by omega)]
    rfl

/-- R94: the clamp over the natural numbers. -/
theorem clamp_natCalib (c t lo hi dmin dmax : Nat) (x : BitVec 16) :
    (natCalib c t lo hi dmin dmax).clamp (zOf x) = ((min (max x.toNat lo) hi : Nat) : Int) := by
  simp [Calib.clamp, natCalib, zOf]

/-- Settles O31: the bounds being in order, the sample decodes to the Command of the clamped sample. -/
theorem decodePutsCommandInResult : Obligations.DecodePutsCommandInResult := fun s m x hr h => by
  rw [exec_decode_some hr (Calib.decode_of_le (Int.ofNat_le.2 h) x), calib_eq_natCalib, clamp_natCalib,
    command_word_eq_decodeSpec h rfl s.minDelay.isLt s.maxDelay.isLt]

end Sys2Proof.Machine

/-! ## The dispatch (spec/42_dispatch.md)

What a whole TICK keeps; what one that no fault ended has done to each motor; then the statements they settle. -/

namespace Sys2Proof.Machine

variable {s s' t u : State} {w : Word} {m m' : Motor} {q : Nat} {c : List EnvCall} {x d : BitVec 16} {dir : Dir}

/-! ### What a TICK keeps (R110, 10_state.md R31) -/

/-- A motor's registers with those that a TICK writes cleared: its calibration and MODE. -/
def Channel.settings (c : Channel) : Channel := { c with idx := 0#3, coil := 0x0#4, elapsed := 0#32, cmd := .stop }

/-- Between `s` and `t` no register was written but IDX, COIL, ELAPSED and CMD of the motors and the error and fault
registers, and no error was counted under HALT. -/
structure TickKeeps (s t : State) : Prop where
  settings : ∀ m, (t.chan m).settings = (s.chan m).settings
  minDelay : t.minDelay = s.minDelay
  maxDelay : t.maxDelay = s.maxDelay
  tickQ : t.tickQ = s.tickQ
  ctrl : t.ctrl = s.ctrl
  result : t.result = s.result
  host : t.host = s.host
  rst : t.rst = s.rst
  errors : s.errPolicy = .halt → t.ioerrCnt = s.ioerrCnt ∧ t.status.ioErr = s.status.ioErr

theorem TickKeeps.errPolicy (h : TickKeeps s t) : t.errPolicy = s.errPolicy := by simp [State.errPolicy, h.ctrl]

theorem TickKeeps.trans (h : TickKeeps s t) (h' : TickKeeps t u) : TickKeeps s u where
  settings m := (h'.settings m).trans (h.settings m)
  minDelay := h'.minDelay.trans h.minDelay
  maxDelay := h'.maxDelay.trans h.maxDelay
  tickQ := h'.tickQ.trans h.tickQ
  ctrl := h'.ctrl.trans h.ctrl
  result := h'.result.trans h.result
  host := h'.host.trans h.host
  rst := h'.rst.trans h.rst
  errors hp := by
    obtain ⟨hcnt, hio⟩ := h.errors hp
    obtain ⟨hcnt', hio'⟩ := h'.errors (h.errPolicy.trans hp)
    exact ⟨hcnt'.trans hcnt, hio'.trans hio⟩

/-- R110: of its motor's registers a part of a TICK writes none of the settings. -/
theorem TickPart.settings {r : Flow Unit} (h : TickPart w m s r) :
    (r.final.chan m).settings = (s.chan m).settings := by
  cases h <;> simp [Channel.settings]

/-- R31: only under SKIP does a part of a TICK count an error. -/
theorem TickPart.errors_of_halt {r : Flow Unit} (h : TickPart w m s r) (hp : s.errPolicy = .halt) :
    r.final.ioerrCnt = s.ioerrCnt ∧ r.final.status.ioErr = s.status.ioErr := by
  cases h with
  | sampleSkipped _ hs | stopSkipped _ _ _ _ _ hs | stepSkipped _ _ _ _ _ _ _ _ _ hs => simp [hp] at hs
  | _ => simp

theorem TickPart.tickKeeps {r : Flow Unit} (h : TickPart w m s r) : TickKeeps s r.final := by
  obtain ⟨hmin, hmax, hq, hctrl, hrst, hhost, hresult, -⟩ := h.keeps
  refine ⟨fun m' => ?_, hmin, hmax, hq, hctrl, hresult, hhost, hrst, h.errors_of_halt⟩
  obtain rfl | rfl : m' = m ∨ m' = m.other := by cases m <;> cases m' <;> simp [Motor.other]
  · exact h.settings
  · rw [h.leaves_other.1]

@[simp] theorem chan_advance : (advance m s).chan m' =
    if m' = m then { s.chan m with elapsed := countedBy (s.chan m).elapsed s.tickQ.toNat } else s.chan m' := by
  simp [advance, satAdd32_eq_countedBy]

@[simp] theorem env_advance : (advance m s).env m' = s.env m' := by simp [advance]

theorem tickKeeps_advance : TickKeeps s (advance m s) where
  settings m' := by by_cases h : m' = m <;> simp [Channel.settings, h]
  errors _ := by simp [advance]
  minDelay := by simp [advance]
  maxDelay := by simp [advance]
  tickQ := by simp [advance]
  ctrl := by simp [advance]
  result := by simp [advance]
  host := by simp [advance]
  rst := by simp [advance]

theorem execTick_keeps (hr : Running s) (ht : execTick s = .next t) : TickKeeps s t := by
  rcases execTick_cases hr ht with h0 | ⟨u, h0, h1⟩ | ⟨u, v, h0, h1, rfl⟩
  · exact h0.tickKeeps
  · exact h0.tickKeeps.trans (tickMotor_part (h0.running hr) h1).tickKeeps
  · exact ((h0.tickKeeps.trans (tickMotor_part (h0.running hr) h1).tickKeeps).trans tickKeeps_advance).trans
      tickKeeps_advance

/-- R39: so each motor's calibration and MODE are as before. -/
theorem TickKeeps.bank (h : TickKeeps s t) (m : Motor) :
    (t.chan m).calCenter = (s.chan m).calCenter ∧ (t.chan m).calThresh = (s.chan m).calThresh ∧
    (t.chan m).calMin = (s.chan m).calMin ∧ (t.chan m).calMax = (s.chan m).calMax ∧
    (t.chan m).mode = (s.chan m).mode := by
  simpa [Channel.settings] using h.settings m

theorem TickKeeps.mode (h : TickKeeps s t) (m : Motor) : (t.chan m).mode = (s.chan m).mode := by simp [h.bank m]

/-- R16: and the configuration registers read so. -/
theorem TickKeeps.readCfg (h : TickKeeps s t) (r : CfgReg) : t.readCfg r = s.readCfg r := by
  cases r with
  | minDelay | maxDelay | tickQ | ctrl => simp [State.readCfg, h.minDelay, h.maxDelay, h.tickQ, h.ctrl]
  | calCenter m | calThresh m | calMin m | calMax m | mode m => simp [State.readCfg, h.bank m]

/-- R17: by number. -/
theorem TickKeeps.regRead (h : TickKeeps s t) {n : BitVec 8} (hn : n.toNat ≤ 0x0D) : t.regRead n = s.regRead n := by
  obtain ⟨r, hr, -⟩ := regAt_cfg n hn
  simp [State.regRead, hr, State.readReg, h.readCfg r]

theorem TickKeeps.calib (h : TickKeeps s t) (m : Motor) : t.calib m = s.calib m := by
  simp [State.calib, h.bank m, h.minDelay, h.maxDelay]

/-! ### What a TICK that no fault ended has done to each motor (R110, R112, R118) -/

/-- R132: a part that ends the TICK has recorded a fault. -/
theorem TickPart.halted (h : TickPart w m s (.ended t)) : t.status.halted = true := by
  generalize hx : Flow.ended t = r at h
  cases h with
  | sampleHalts | outOfRange | stopHalts | stepHalts => cases hx; rfl
  | _ => cases hx

/-- R118: what was done to a motor is told from its own registers, surroundings and calibration. -/
theorem MotorTicked.congr (h : MotorTicked s t m q c) (hc : s'.chan m = s.chan m) (he : s'.env m = s.env m)
    (hk : s'.calib m = s.calib m) : MotorTicked s' t m q c := by
  have hs : s'.sampleAnswer m = s.sampleAnswer m := by simp [State.sampleAnswer, he]
  have hw : s'.writeAnswer m = s.writeAnswer m := by simp [State.writeAnswer, he]
  have hl : s'.len m = s.len m := by simp [State.len, hc]
  have hn : ∀ i, s'.entry m i = s.entry m i := by simp [State.entry, hc]
  have hi : s'.index m = s.index m := by simp [State.index, hc]
  cases h with
  | skipped => apply MotorTicked.skipped <;> simpa only [hs, hc, he]
  | stopped => apply MotorTicked.stopped <;> simpa only [hs, hw, hc, he, hk]
  | stopFailed => apply MotorTicked.stopFailed <;> simpa only [hs, hw, hc, he, hk]
  | waited => apply MotorTicked.waited <;> simpa only [hs, hc, he, hk]
  | stepped => rw [← hn, ← hi]; apply MotorTicked.stepped <;> simpa only [hs, hw, hc, he, hk, hi, hl, hn]
  | stepFailed => rw [← hn, ← hi]; apply MotorTicked.stepFailed <;> simpa only [hs, hw, hc, he, hk, hi, hn]

/-- R110: a TICK that no fault ended has done both motors' parts and both increments, and recorded their calls and
errors. -/
theorem execTick_ticked (hr : Running s) (ht : execTick s = .next t) (hh : t.status.halted = false) :
    ∃ c : Motor → List EnvCall, TickRecord s t c ∧ ∀ m, MotorTicked s t m s.tickQ.toNat (c m) := by
  have hq : s.tickQ.toNat < 2 ^ 32 := by have := s.tickQ.isLt; omega
  rcases execTick_cases hr ht with h0 | ⟨u, h0, h1⟩ | ⟨u, v, h0, h1, rfl⟩
  · simp [h0.halted] at hh
  · simp [(tickMotor_part (h0.running hr) h1).halted] at hh
  · have h1 := tickMotor_part (h0.running hr) h1
    have hu : TickKeeps s u := h0.tickKeeps
    have hv : TickKeeps u v := h1.tickKeeps
    have hqv : v.tickQ = s.tickQ := hv.tickQ.trans hu.tickQ
    obtain ⟨hchan0, henv0⟩ := h0.leaves_other
    obtain ⟨hchan1, henv1⟩ := h1.leaves_other
    simp only [final_cont, Motor.other] at hchan0 henv0 hchan1 henv1
    obtain ⟨c0, hcalls0, hm0, hcnt0, hst0, hf0⟩ := h0.ticked (t := advance .m1 (advance .m0 v)) hq
      (by simp [hchan1, hqv]) (by simp [henv1])
    obtain ⟨c1, hcalls1, hm1, hcnt1, hst1, hf1⟩ := h1.ticked (t := advance .m1 (advance .m0 v)) hq
      (by simp [hqv, tickKeeps_advance.tickQ]) (by simp)
    refine ⟨fun | .m0 => c0 | .m1 => c1, ⟨?_, ?_, ?_, ?_, ?_, ?_, ?_⟩, fun m => ?_⟩
    · simp [hcalls1, hcalls0]
    · simp only [advance, setElapsed_ioerrCnt, hcnt1, hcnt0, List.countP_append]
      omega
    · simp [advance, hst1, hst0, Bool.or_assoc]
    · simp [advance, hf1, hf0]
    · simp [advance, hv.result, hu.result]
    · simp [advance, hv.host, hu.host]
    · simp [advance, hv.rst, hu.rst]
    · cases m with
      | m0 => exact hm0
      | m1 => exact hm1.congr hchan0.symm henv0.symm (hu.calib .m1).symm

/-- Settles O39: what every part of a TICK keeps; and a TICK that no fault ended has recorded none. -/
theorem tickFrame : Obligations.TickFrame := by
  intro s t hr ht
  have h := execTick_keeps hr ht
  refine ⟨fun n hn => h.regRead hn, h.result, fun hh => ?_, h.errors, h.host, h.rst⟩
  obtain ⟨c, ⟨-, -, hstatus, hcmd, -⟩, -⟩ := execTick_ticked hr ht hh
  exact ⟨hcmd, by rw [hstatus]⟩

/-! ### The counters (R111, R112) -/

@[simp] theorem countedBy_toNat (e : BitVec 32) (q : Nat) : (countedBy e q).toNat = min (e.toNat + q) (2 ^ 32 - 1) := by
  simp only [countedBy, BitVec.toNat_ofNat]
  omega

/-- R78: a step moves the index, even one outside its table into it. -/
theorem ofNat_nextIndex_ne (dir : Dir) :
    BitVec.ofNat 3 (nextIndex dir (s.len m) (s.index m)) ≠ (s.chan m).idx := by
  unfold State.len State.index
  generalize (s.chan m).mode = b
  generalize (s.chan m).idx = i
  revert b i
  cases dir <;> decide

/-- R111, R112: a motor's counter starts again where its index moved, and else runs on. -/
theorem MotorTicked.elapsed (h : MotorTicked s t m q c) (hq : q < 2 ^ 32) : (t.chan m).elapsed.toNat =
    min ((if (t.chan m).idx = (s.chan m).idx then (s.chan m).elapsed.toNat else 0) + q) (2 ^ 32 - 1) := by
  cases h with
  | skipped _ hc | stopped _ _ _ _ hc | stopFailed _ _ _ _ _ hc | stepFailed _ _ _ _ _ _ _ _ hc
  | waited _ _ _ _ _ _ hc => simp [hc]
  | stepped _ _ dir _ _ _ _ hc =>
    simp only [hc, ofNat_nextIndex_ne, if_false, BitVec.toNat_ofNat]
    omega

theorem execTick_elapsed (hr : Running s) (ht : execTick s = .next t) (hh : t.status.halted = false) (m : Motor) :
    (t.chan m).elapsed.toNat =
      min ((if (t.chan m).idx = (s.chan m).idx then (s.chan m).elapsed.toNat else 0) + s.tickQ.toNat)
        (2 ^ 32 - 1) := by
  obtain ⟨c, -, hm⟩ := execTick_ticked hr ht hh
  exact (hm m).elapsed (by have := s.tickQ.isLt; omega)

/-- Settles O40: whatever was done to the motor. -/
theorem countersAdvanceEveryTick : Obligations.CountersAdvanceEveryTick :=
  fun _ _ hr ht hh m => execTick_elapsed hr ht hh m

/-! ### What was done to a motor as a function of the answers (R108, R110, R113) -/

/-- A step of motor `m` on the sample `x`, by the gate and the write's answer: its registers, its surroundings and
the calls made. -/
def steppedOutcome (s : State) (m : Motor) (q : Nat) (x d : BitVec 16) (dir : Dir) :
    Channel × MotorEnv × List EnvCall :=
  if (s.chan m).elapsed.toNat < d.toNat then
    ({ s.chan m with cmd := dir.command d, elapsed := countedBy (s.chan m).elapsed q }, (s.env m).afterSample,
      [.sampleRead m (.ok x)])
  else
    match s.writeAnswer m with
    | .ok =>
      ({ s.chan m with
          cmd := dir.command d, coil := s.entry m (s.index m),
          idx := BitVec.ofNat 3 (nextIndex dir (s.len m) (s.index m)), elapsed := BitVec.ofNat 32 q },
        { (s.env m).afterSample.afterWrite with pins := s.entry m (s.index m) },
        [.sampleRead m (.ok x), .outWrite m (s.entry m (s.index m)) true])
    | .failed l =>
      ({ s.chan m with cmd := dir.command d, coil := l, elapsed := countedBy (s.chan m).elapsed q },
        { (s.env m).afterSample.afterWrite with pins := l },
        [.sampleRead m (.ok x), .outWrite m (s.entry m (s.index m)) false])

/-- Motor `m`'s part of a TICK and its increment by `q`: its registers, its surroundings and the calls made; none
where the sample decodes to no Command. -/
def tickOutcome (s : State) (m : Motor) (q : Nat) : Option (Channel × MotorEnv × List EnvCall) :=
  match s.sampleAnswer m with
  | .failed =>
    some ({ s.chan m with elapsed := countedBy (s.chan m).elapsed q }, (s.env m).afterSample, [.sampleRead m .failed])
  | .ok x =>
    ((s.calib m).decode x).map fun
      | .stop =>
        ({ s.chan m with
            cmd := .stop, coil := levelOf 0x0#4 (s.writeAnswer m), elapsed := countedBy (s.chan m).elapsed q },
          { (s.env m).afterSample.afterWrite with pins := levelOf 0x0#4 (s.writeAnswer m) },
          [.sampleRead m (.ok x), .outWrite m 0x0#4 (ackOf (s.writeAnswer m))])
      | .forward d => steppedOutcome s m q x d .fwd
      | .backward d => steppedOutcome s m q x d .back

theorem tickOutcome_command (hs : s.sampleAnswer m = .ok x) (hd : (s.calib m).decode x = some (dir.command d)) :
    tickOutcome s m q = some (steppedOutcome s m q x d dir) := by
  cases dir <;> simp [tickOutcome, hs, hd, Dir.command]

/-- What `MotorTicked` tells is this function's value. -/
theorem MotorTicked.eq_outcome (h : MotorTicked s t m q c) : tickOutcome s m q = some (t.chan m, t.env m, c) := by
  cases h with
  | skipped h hc he => simp [tickOutcome, h, hc, he]
  | stopped x h hd hw hc he => simp [tickOutcome, h, hd, hw, hc, he, levelOf, ackOf]
  | stopFailed x l h hd hw hc he => simp [tickOutcome, h, hd, hw, hc, he, levelOf, ackOf]
  | stepped x d dir h hd hg hw hc he =>
    simp [tickOutcome_command h hd, steppedOutcome, Nat.not_lt.2 hg, hw, hc, he]
  | stepFailed x d dir l h hd hg hw hc he =>
    simp [tickOutcome_command h hd, steppedOutcome, Nat.not_lt.2 hg, hw, hc, he]
  | waited x d dir h hd hg hc he => simp [tickOutcome_command h hd, steppedOutcome, hg, hc, he]

/-- Settles O46: motor `m`'s outcome is a function of what the two states agree on. -/
theorem motorsAreIndependent : Obligations.MotorsAreIndependent := by
  intro s s' t t' m hr hr' hc he hmin hmax hq ht ht' hh hh'
  obtain ⟨c, -, h⟩ := execTick_ticked hr ht hh
  obtain ⟨c', -, h'⟩ := execTick_ticked hr' ht' hh'
  have hk : s.calib m = s'.calib m := by simp [State.calib, hc, hmin, hmax]
  have hout := ((h' m).congr hc he hk).eq_outcome
  rw [← hq, (h m).eq_outcome] at hout
  simp only [Option.some.injEq, Prod.mk.injEq] at hout
  obtain ⟨hchan, henv, -⟩ := hout
  exact ⟨hchan, henv⟩

/-! ### A TICK whose calls all succeed (R108, R110 to R113) -/

/-- R110: such a TICK has a next state, with no error or fault recorded. -/
theorem execTick_succeeds {x : Motor → BitVec 16} (hr : Running s) (hc : ∀ m, CanTick s m)
    (hx : ∀ m, CallsSucceed s m (x m)) :
    ∃ t, execTick s = .next t ∧ t.status = s.status ∧ t.ioerrCnt = s.ioerrCnt := by
  obtain ⟨r, h0⟩ := tickMotor_ok (w := encode .tick) (hc .m0)
  obtain ⟨u, c, rfl, hu, -⟩ := (tickMotor_part hr h0).reaches_other hr (hc .m0) (hx .m0)
  have hu : TickReaches s u .m1 c := hu
  have hcu : CanTick u .m1 := by
    simpa only [CanTick, State.sampleAnswer, State.index, State.len, hu.chan, hu.env, hu.calib] using hc .m1
  have hxu : CallsSucceed u .m1 (x .m1) := by
    simpa only [CallsSucceed, State.sampleAnswer, State.writeAnswer, hu.chan, hu.env, hu.calib] using hx .m1
  obtain ⟨r, h1⟩ := tickMotor_ok (w := encode .tick) hcu
  obtain ⟨v, rfl, hstatus, hcnt⟩ := (tickMotor_part hu.running h1).succeeds hcu hxu
  exact ⟨_, execTick_both hr h0 h1, by simpa [advance, hstatus] using hu.status,
    by simpa [advance, hcnt] using hu.ioerrCnt⟩

/-- R113: told to stop, the coils are forced low. -/
theorem MotorTicked.of_stop (h : MotorTicked s t m q c) (hs : s.sampleAnswer m = .ok x)
    (hd : (s.calib m).decode x = some .stop) (hw : s.writeAnswer m = .ok) :
    t.chan m = { s.chan m with cmd := .stop, coil := 0x0#4, elapsed := countedBy (s.chan m).elapsed q } ∧
    t.env m = { (s.env m).afterSample.afterWrite with pins := 0x0#4 } ∧
    c = [.sampleRead m (.ok x), .outWrite m 0x0#4 true] := by
  simpa [tickOutcome, hs, hd, hw, levelOf, ackOf, eq_comm] using h.eq_outcome

/-- R108, R111: the gate open, the step is taken and the counter starts again. -/
theorem MotorTicked.of_open (h : MotorTicked s t m q c) (hs : s.sampleAnswer m = .ok x)
    (hd : (s.calib m).decode x = some (dir.command d)) (hg : d.toNat ≤ (s.chan m).elapsed.toNat)
    (hw : s.writeAnswer m = .ok) :
    t.chan m = { s.chan m with
      cmd := dir.command d, coil := s.entry m (s.index m),
      idx := BitVec.ofNat 3 (nextIndex dir (s.len m) (s.index m)), elapsed := BitVec.ofNat 32 q } ∧
    t.env m = { (s.env m).afterSample.afterWrite with pins := s.entry m (s.index m) } ∧
    c = [.sampleRead m (.ok x), .outWrite m (s.entry m (s.index m)) true] := by
  simpa [tickOutcome_command hs hd, steppedOutcome, Nat.not_lt.2 hg, hw, eq_comm] using h.eq_outcome

/-- R108: the gate closed, nothing is written. -/
theorem MotorTicked.of_closed (h : MotorTicked s t m q c) (hs : s.sampleAnswer m = .ok x)
    (hd : (s.calib m).decode x = some (dir.command d)) (hg : (s.chan m).elapsed.toNat < d.toNat) :
    t.chan m = { s.chan m with cmd := dir.command d, elapsed := countedBy (s.chan m).elapsed q } ∧
    t.env m = (s.env m).afterSample ∧ c = [.sampleRead m (.ok x)] := by
  simpa [tickOutcome_command hs hd, steppedOutcome, hg, eq_comm] using h.eq_outcome

/-- R38: a Command is a Stop or a step one way. -/
theorem stop_or_command (cmd : Command) : cmd = .stop ∨ ∃ dir d, cmd = Dir.command dir d := by
  cases cmd with
  | stop => exact .inl rfl
  | forward d => exact .inr ⟨.fwd, d, rfl⟩
  | backward d => exact .inr ⟨.back, d, rfl⟩

theorem command_inj {dir' : Dir} {d' : BitVec 16} (h : dir.command d = dir'.command d') : dir = dir' ∧ d = d' :=
  ⟨by cases dir <;> cases dir' <;> simp_all [Dir.command], delay_eq_of_command_eq h⟩

/-- R78: the index register after a step as a number. -/
theorem toNat_ofNat_nextIndex (dir : Dir) :
    (BitVec.ofNat 3 (nextIndex dir (s.len m) (s.index m))).toNat = nextIndex dir (s.len m) (s.index m) := by
  rw [← moveIdx_eq_nextIndex]
  exact toNat_moveIdx ..

/-- Settles O38: no call fails, so the TICK ends well, and each motor has done what its Command and its gate say. -/
theorem tickWithAllCallsSucceeding : Obligations.TickWithAllCallsSucceeding := by
  intro s x hr hv hi hx
  have hcan : ∀ m, CanTick s m := fun m y _ => by
    obtain ⟨cmd, hd, -⟩ := hv.decode m y
    exact ⟨cmd, hd, .inr (hi m)⟩
  obtain ⟨t, ht, hstatus, hcnt⟩ := execTick_succeeds hr hcan hx
  obtain ⟨c, ⟨hcalls, -, -, hcmd, hresult, hhost, hrst⟩, hm⟩ := execTick_ticked hr ht (by rw [hstatus]; exact hr.1)
  have hk := execTick_keeps hr ht
  have hq : s.tickQ.toNat % 2 ^ 32 = s.tickQ.toNat := Nat.mod_eq_of_lt (by have := s.tickQ.isLt; omega)
  refine ⟨t, c, ht, hcalls, fun m => ?_, fun m => ⟨hk.mode m, hk.calib m⟩, hk.tickQ, hk.ctrl, hstatus, hcnt,
    hcmd, hresult, hhost, hrst⟩
  have hs := (hx m).1
  obtain ⟨cmd, hd, -⟩ := hv.decode m (x m)
  refine ⟨cmd, hd, ?_⟩
  obtain rfl | ⟨dir, d, rfl⟩ := stop_or_command cmd
  · have hw := (hx m).writeAnswer hs hd fun dir d h => absurd h.symm (command_ne_stop d)
    obtain ⟨hchan, henv, hcm⟩ := (hm m).of_stop hs hd hw
    exact ⟨by rw [hchan], fun _ => ⟨hcm, by rw [hchan], by rw [hchan], henv, by simp [hchan]⟩,
      fun dir d h => absurd h.symm (command_ne_stop d), fun dir d h => absurd h.symm (command_ne_stop d)⟩
  · obtain hg | hg := Nat.lt_or_ge (s.chan m).elapsed.toNat d.toNat
    · obtain ⟨hchan, henv, hcm⟩ := (hm m).of_closed hs hd hg
      refine ⟨by rw [hchan], fun h => absurd h (command_ne_stop d), fun dir' d' h hg' => ?_, fun dir' d' h _ => ?_⟩
      · obtain ⟨rfl, rfl⟩ := command_inj h
        omega
      · exact ⟨hcm, by rw [hchan], by rw [hchan], henv, by simp [henv], by simp [hchan]⟩
    · have hw := (hx m).writeAnswer hs hd fun dir' d' h => (command_inj h).2 ▸ hg
      obtain ⟨hchan, henv, hcm⟩ := (hm m).of_open hs hd hg hw
      refine ⟨by rw [hchan], fun h => absurd h (command_ne_stop d), fun dir' d' h _ => ?_, fun dir' d' h hg' => ?_⟩
      · obtain ⟨rfl, rfl⟩ := command_inj h
        exact ⟨hcm, by rw [hchan], henv, by rw [State.index, hchan]; exact toNat_ofNat_nextIndex dir,
          by simpa [hchan] using hq⟩
      · obtain ⟨rfl, rfl⟩ := command_inj h
        omega

/-! ### The step period under a constant command (R114) -/

/-- A count down to 0 that then starts again from `p - 1` is at 0 first after its start value, and then every `p`
times. -/
theorem countdown_eq_zero_iff {n p : Nat} {f : Nat → Nat} (hp : 0 < p)
    (hf : ∀ k, k < n → f (k + 1) = if f k = 0 then p - 1 else f k - 1) {k : Nat} (hk : k ≤ n) :
    f k = 0 ↔ f 0 ≤ k ∧ (k - f 0) % p = 0 := by
  have hinv : ∀ k, k ≤ n → ∃ j, k + f k = f 0 + j * p ∧ (j = 0 ∨ f k < p) := by
    intro k
    induction k with
    | zero => exact fun _ => ⟨0, by simp⟩
    | succ k ih =>
      intro hk
      obtain ⟨j, hj, hlt⟩ := ih (by omega)
      rw [hf k (by omega)]
      split
      · exact ⟨j + 1, by rw [Nat.succ_mul]; omega, by omega⟩
      · exact ⟨j, by omega, by omega⟩
  obtain ⟨j, hj, hlt⟩ := hinv k hk
  constructor
  · intro h0
    have hsub : k - f 0 = j * p := by omega
    exact ⟨by omega, by simp [hsub]⟩
  · rintro ⟨hle, hmod⟩
    obtain rfl | hlt := hlt
    · omega
    · have hsum : (f k + (k - f 0)) % p = 0 := by
        rw [show f k + (k - f 0) = j * p by omega, Nat.mul_mod_left]
      rwa [Nat.add_mod, hmod, Nat.add_zero, Nat.mod_mod, Nat.mod_eq_of_lt hlt] at hsum

/-- The number of ticks of `q` until a counter at `e` reaches the delay `d`: `ceil(max(0, d - e) / q)`. -/
def ticksUntil (q d e : Nat) : Nat := (d - e + q - 1) / q

theorem ticksUntil_eq_zero_iff {q d e : Nat} (hq : 0 < q) : ticksUntil q d e = 0 ↔ d ≤ e := by
  rw [ticksUntil, Nat.div_eq_zero_iff]
  omega

/-- A tick that waits brings the step one tick nearer. -/
theorem ticksUntil_add {q d e : Nat} (hq : 0 < q) (h : e < d) : ticksUntil q d (e + q) = ticksUntil q d e - 1 := by
  unfold ticksUntil
  obtain hlt | hle := Nat.lt_or_ge (e + q) d
  · rw [show d - e + q - 1 = (d - (e + q) + q - 1) + q by omega, Nat.add_div_right _ hq]
    rfl
  · rw [Nat.div_eq_of_lt (by omega), Nat.div_eq_of_lt_le (k := 1) (by omega) (by omega)]

/-- A tick that steps leaves one period less the tick itself. -/
theorem ticksUntil_self {q d : Nat} (hq : 0 < q) : ticksUntil q d q = max 1 ((d + q - 1) / q) - 1 := by
  obtain rfl | hd := Nat.eq_zero_or_pos d
  · rw [(ticksUntil_eq_zero_iff hq).2 (Nat.zero_le q), Nat.div_eq_of_lt (by omega)]
    rfl
  · have h := ticksUntil_add hq hd
    rw [Nat.zero_add] at h
    rw [h, ticksUntil, Nat.sub_zero]
    omega

/-- A counter that grows by `q` below the delay and starts again at `q` from it on has reached the delay as R114
says. -/
theorem delay_le_iff {n q d : Nat} {e : Nat → Nat} (hq : 0 < q)
    (he : ∀ k, k < n → e (k + 1) = if d ≤ e k then q else e k + q) {k : Nat} (hk : k ≤ n) :
    d ≤ e k ↔ ticksUntil q d (e 0) ≤ k ∧ (k - ticksUntil q d (e 0)) % max 1 ((d + q - 1) / q) = 0 := by
  rw [← ticksUntil_eq_zero_iff hq]
  refine countdown_eq_zero_iff (f := fun k => ticksUntil q d (e k)) (by omega) (fun k hk => ?_) hk
  simp only [ticksUntil_eq_zero_iff hq, he k hk]
  split
  · exact ticksUntil_self hq
  · exact ticksUntil_add hq (by omega)

/-- R108, R111, R112: under a step command whose calls succeed, a TICK that no fault ended steps where the gate was
open, and leaves the counter at one quantum; else it adds one, the counter being below a delay of 16 bits. -/
theorem execTick_commanded (hr : Running s) (ht : execTick s = .next t) (hh : t.status.halted = false)
    (hs : s.sampleAnswer m = .ok x) (hd : (s.calib m).decode x = some (dir.command d)) (hw : s.writeAnswer m = .ok) :
    ((t.chan m).idx ≠ (s.chan m).idx ↔ d.toNat ≤ (s.chan m).elapsed.toNat) ∧
    (t.chan m).elapsed.toNat =
      if d.toNat ≤ (s.chan m).elapsed.toNat then s.tickQ.toNat else (s.chan m).elapsed.toNat + s.tickQ.toNat := by
  obtain ⟨c, -, hm⟩ := execTick_ticked hr ht hh
  have he := execTick_elapsed hr ht hh m
  have hqlt := s.tickQ.isLt
  have hdlt := d.isLt
  obtain hg | hg := Nat.lt_or_ge (s.chan m).elapsed.toNat d.toNat
  · obtain ⟨hchan, -⟩ := (hm m).of_closed hs hd hg
    have hidx : (t.chan m).idx = (s.chan m).idx := by rw [hchan]
    rw [if_pos hidx] at he
    rw [if_neg (by omega)]
    exact ⟨by simp [hidx, hg], by omega⟩
  · obtain ⟨hchan, -⟩ := (hm m).of_open hs hd hg hw
    have hidx : (t.chan m).idx ≠ (s.chan m).idx := by
      rw [hchan]
      exact ofNat_nextIndex_ne dir
    rw [if_neg hidx] at he
    rw [if_pos hg]
    exact ⟨by simp [hidx, hg], by omega⟩

/-- Settles O47: the ticks until the next step are counted down, one a tick, and start again at each step. -/
theorem stepPeriod : Obligations.StepPeriod := by
  intro σ n m dir d hnext hrun hcall hq k hk
  have htickQ : ∀ k, k ≤ n → (σ k).tickQ = (σ 0).tickQ := by
    intro k
    induction k with
    | zero => exact fun _ => rfl
    | succ k ih => exact fun hk => (execTick_keeps (hrun k (by omega)) (hnext k hk)).tickQ.trans (ih (by omega))
  have htick : ∀ k, k < n →
      (((σ (k + 1)).chan m).idx ≠ ((σ k).chan m).idx ↔ d.toNat ≤ ((σ k).chan m).elapsed.toNat) ∧
      ((σ (k + 1)).chan m).elapsed.toNat = if d.toNat ≤ ((σ k).chan m).elapsed.toNat then (σ 0).tickQ.toNat
        else ((σ k).chan m).elapsed.toNat + (σ 0).tickQ.toNat := by
    intro k hk
    obtain ⟨hw, x, hs, hd⟩ := hcall k hk
    rw [← htickQ k hk.le]
    exact execTick_commanded (hrun k hk.le) (hnext k hk) (hrun (k + 1) hk).1 hs hd hw
  rw [(htick k hk).1]
  exact delay_le_iff (e := fun k => ((σ k).chan m).elapsed.toNat) hq (fun k hk => (htick k hk).2) hk.le

end Sys2Proof.Machine

/-! ## Control (spec/43_control.md)

What a command leaves of the configuration; then NOP, RDREG and START. -/

namespace Sys2Proof.Machine

variable {s t : State} {w : Word} {m m' : Motor} {n : BitVec 8}

/-! ### The configuration registers in the run phase (R128, 40_sequencer.md R91) -/

/-- R16, R132: recording a fault writes no configuration register. -/
@[simp] theorem readCfg_faulted (cause : Cause) (r : CfgReg) : (s.faulted w cause m).readCfg r = s.readCfg r := by
  cases r <;> simp [State.readCfg]

/-- R37: neither does writing RESULT. -/
@[simp] theorem readCfg_setResult (v : Word) (r : CfgReg) : (s.setResult v).readCfg r = s.readCfg r := by
  cases r <;> simp [State.readCfg]

/-- R17: the numbers up to 0x0D read as before where every configuration register does. -/
theorem regRead_of_readCfg (h : ∀ r, t.readCfg r = s.readCfg r) (hn : n.toNat ≤ 0x0D) : t.regRead n = s.regRead n := by
  obtain ⟨r, hr, -⟩ := regAt_cfg n hn
  simp [State.regRead, hr, State.readReg, h r]

/-- R91: a sequencer operation writes no configuration register. -/
theorem SequencerFrame.regRead_cfg (h : SequencerFrame m s t) (hn : n.toNat ≤ 0x0D) : t.regRead n = s.regRead n := by
  have hout : ∀ k ∈ [numOf 0x12 m, numOf 0x14 m, 0x10#8, 0x11#8, 0x1A#8], 0x0D < k.toNat := by cases m <;> decide
  have hne : n ∉ [numOf 0x12 m, numOf 0x14 m, 0x10#8, 0x11#8, 0x1A#8] := fun hmem => by
    have := hout n hmem
    omega
  rw [List.mem_cons, List.mem_cons, not_or, not_or] at hne
  obtain ⟨hidx, hcoil, herr⟩ := hne
  exact h.regRead hidx hcoil (.inl herr)

/-- R128: after START no command writes a configuration register. -/
theorem ExecPart.regRead_cfg {i : Instr} (h : ExecPart i s t) (hrun : s.status.run = true) (hn : n.toNat ≤ 0x0D) :
    t.regRead n = s.regRead n := by
  cases h with
  | unchanged => rfl
  | illegal | outOfRange | reads | decodes => exact regRead_of_readCfg (by simp) hn
  | steps m dir r _ _ _ h => exact h.leaves.frame.regRead_cfg hn
  | stops m r _ _ h => exact h.leaves.frame.regRead_cfg hn
  | ticks _ hr _ h => exact (execTick_keeps hr h).regRead hn
  | writes _ _ _ hc | invalid hc | starts _ hc => simp [hc.2] at hrun

/-- R128: nor does any word, an ILLEGAL one among them. -/
theorem performWord_regRead_cfg (h : performWord w s = .next t) (hrun : s.status.run = true) (hn : n.toNat ≤ 0x0D) :
    t.regRead n = s.regRead n := by
  cases hw : decodeWord w with
  | instr i =>
    simp only [performWord, hw] at h
    exact (exec_part h).regRead_cfg hrun hn
  | illegal why =>
    rw [performWord_of_illegal hw, Host.Outcome.next.injEq] at h
    subst h
    cases hh : s.status.halted with
    | true => rw [raise_of_halted _ hh]
    | false =>
      rw [raise_eq_faulted _ hh]
      exact regRead_of_readCfg (by simp) hn

/-- R128: nor an item of the host's that does not reset the block. -/
theorem acceptInput_regRead_cfg {x : HostInput} (hx : x.resets = false) (h : acceptInput x s = .next t)
    (hrun : s.status.run = true) (hn : n.toNat ≤ 0x0D) : t.regRead n = s.regRead n := by
  cases x with
  | rst | commandCut => simp [HostInput.resets] at hx
  | command w =>
    cases hrst : s.rst with
    | false =>
      rw [acceptInput_command hrst] at h
      exact performWord_regRead_cfg h hrun hn
    | true =>
      simp only [acceptInput, hrst, if_true, Host.Outcome.next.injEq] at h
      rw [h]

/-- Settles O57: an idle step leaves the state, and any other takes an item that does not reset the block. -/
theorem configurationFixedWhileRunning : Obligations.ConfigurationFixedWhileRunning := by
  intro s t hrun hnr ht n hn
  cases hh : s.host with
  | nil =>
    rw [step_idle hh, Host.Outcome.next.injEq] at ht
    rw [ht]
  | cons x rest =>
    rw [step_offered hh] at ht
    calc t.regRead n
      _ = (s.setHost rest).regRead n := acceptInput_regRead_cfg (hnr x rest hh) ht hrun hn
      _ = s.regRead n := regRead_eq_of_same (chan_setHost s · rest) rfl rfl rfl rfl rfl rfl rfl n

/-! ### NOP (R119) -/

/-- R65: the word 0 is NOP's. -/
theorem decodeWord_nop_iff : decodeWord w = .instr .nop ↔ w = 0x00000000#32 :=
  ⟨fun h => (encodeOfDecode w .nop h).symm, fun h => h ▸ decodeOfEncode .nop⟩

/-- Settles O48: a word with NOP's operation code fits no other row, and only NOP's word fits NOP's. -/
theorem nopDoesNothing : Obligations.NopDoesNothing := by
  refine ⟨fun _ => rfl, fun _ => decodeWord_nop_iff, fun w hop hne => decodeWord_illegal_iff.2 fun k hk => hne ?_⟩
  obtain rfl : k = .NOP := Mnemonic.op_injective (hk.op.symm.trans hop)
  exact decodeWord_nop_iff.1 (decodeWord_of_fits hk)

/-! ### RDREG (R123, R124) -/

/-- R123: RDREG of a register's number puts the register in RESULT, in every state. -/
theorem exec_rdreg_num (s : State) (r : Reg) : exec (.rdreg r.num) s = .next (s.setResult (s.readReg r)) := by
  simp [exec, execRdreg, regRead_num]

/-- Settles O49: the registers of the map, in the order of their numbers. -/
theorem rdregReadsTheRegisterMap : Obligations.RdregReadsTheRegisterMap := fun s =>
  have cfg (r : CfgReg) := exec_rdreg_num s (.rw r)
  have ro (r : RoReg) := exec_rdreg_num s (.ro r)
  ⟨cfg (.calCenter .m0), cfg (.calThresh .m0), cfg (.calMin .m0), cfg (.calMax .m0),
    cfg (.calCenter .m1), cfg (.calThresh .m1), cfg (.calMin .m1), cfg (.calMax .m1),
    cfg .minDelay, cfg .maxDelay, cfg .tickQ, cfg (.mode .m0), cfg (.mode .m1), cfg .ctrl,
    ro .status, ro .ioerrCnt, ro (.idx .m0), ro (.idx .m1), ro (.coil .m0), ro (.coil .m1),
    ro (.elapsed .m0), ro (.elapsed .m1), ro (.cmd .m0), ro (.cmd .m1), ro .faultCmd⟩

/-! ### START (R125 to R127) -/

@[simp] theorem writeAnswer_started : s.started.writeAnswer m = s.writeAnswer m := by simp [State.writeAnswer]
@[simp] theorem started_halted : s.started.status.halted = s.status.halted := rfl
@[simp] theorem errPolicy_started : s.started.errPolicy = s.errPolicy := rfl
@[simp] theorem writeAnswer_errorCounted : s.errorCounted.writeAnswer m = s.writeAnswer m := by
  simp [State.writeAnswer]
@[simp] theorem errPolicy_errorCounted : s.errorCounted.errPolicy = s.errPolicy := rfl

/-- R127: a write to one motor uses up no answer of the other's. -/
@[simp] theorem writeAnswer_wrote_of_ne (p l : Pattern) (ok : Bool) (h : m' ≠ m) :
    (s.wrote m p ok l).writeAnswer m' = s.writeAnswer m' := by simp [State.writeAnswer, h]

/-- R79, R136 under HALT: a stop whose write fails ends the command. -/
theorem seqStop_failed_halt {d : Pattern} (hw : s.writeAnswer m = .failed d) (hp : s.errPolicy = .halt)
    (hh : s.status.halted = false) : seqStop w m s = .ended ((s.wrote m 0x0#4 false d).faulted w .ioPin m) := by
  rw [seqStop_failed hw, ioError_halt _ (by simpa using hp) (by simpa using hh)]

/-- R79, R136 under SKIP: it is counted, and the command goes on. -/
theorem seqStop_failed_skip {d : Pattern} (hw : s.writeAnswer m = .failed d) (hp : s.errPolicy = .skip) :
    seqStop w m s = .cont () (s.wrote m 0x0#4 false d).errorCounted := by
  rw [seqStop_failed hw, ioError_skip _ (by simpa using hp)]

/-- R125: with a valid configuration START goes on to the bring-up. -/
theorem exec_start_valid (hc : Configuring s) (hv : s.ConfigValid) :
    exec .start s = .next (bringUp (encode .start) s) := by
  simp only [exec, execStart, inConfigPhase_configuring _ hc, if_pos hv]

/-- R125: motor 0's stop with RUN set, then motor 1's. -/
theorem bringUp_eq : bringUp w s = ((seqStop w .m0 s.started).andThen fun _ t => seqStop w .m1 t).final := rfl

/-- R125, R127: motor 0's write succeeding, the bring-up goes on to motor 1's. -/
theorem bringUp_of_ok (h : s.writeAnswer .m0 = .ok) :
    bringUp w s = (seqStop w .m1 (s.started.wrote .m0 0x0#4 true 0x0#4)).final := by
  have h0 : seqStop w .m0 s.started = .cont () _ := seqStop_ok (by simpa using h)
  rw [bringUp_eq, h0, andThen_cont]

/-- R134, R140 under HALT: motor 0's write failing, the bring-up ends with motor 1's unmade. -/
theorem bringUp_of_failed_halt {d : Pattern} (h : s.writeAnswer .m0 = .failed d) (hp : s.errPolicy = .halt)
    (hh : s.status.halted = false) :
    bringUp w s = (s.started.wrote .m0 0x0#4 false d).faulted w .ioPin .m0 := by
  have h0 : seqStop w .m0 s.started = .ended _ := seqStop_failed_halt (by simpa using h) (by simpa using hp) hh
  rw [bringUp_eq, h0, andThen_ended, final_ended]

/-- R136, R140 under SKIP: motor 0's write failing, the bring-up counts it and goes on to motor 1's. -/
theorem bringUp_of_failed_skip {d : Pattern} (h : s.writeAnswer .m0 = .failed d) (hp : s.errPolicy = .skip) :
    bringUp w s = (seqStop w .m1 (s.started.wrote .m0 0x0#4 false d).errorCounted).final := by
  have h0 : seqStop w .m0 s.started = .cont () _ := seqStop_failed_skip (by simpa using h) (by simpa using hp)
  rw [bringUp_eq, h0, andThen_cont]

/-- R126: the validity predicate, for either motor at once. -/
theorem configValid_iff : s.ConfigValid ↔
    (∀ m, (s.chan m).calMin.toNat < (s.chan m).calCenter.toNat ∧
      (s.chan m).calCenter.toNat < (s.chan m).calMax.toNat) ∧
    s.minDelay.toNat ≤ s.maxDelay.toNat ∧ s.tickQ.toNat ≠ 0 :=
  ⟨fun ⟨h0, h1, hd, hq⟩ => ⟨fun | .m0 => h0 | .m1 => h1, hd, Nat.ne_zero_of_lt hq⟩,
    fun ⟨h, hd, hq⟩ => ⟨h .m0, h .m1, hd, Nat.one_le_iff_ne_zero.2 hq⟩⟩

/-- Settles O55: the configuration is checked before RUN is set. -/
theorem startRejectsInvalidConfiguration : Obligations.StartRejectsInvalidConfiguration := by
  intro s hc hv
  rw [← configValid_iff] at hv
  simp only [exec, execStart, inConfigPhase_configuring _ hc, if_neg hv, raise_eq_faulted _ hc.1]

/-- Settles O54: both stops go on, motor 1's from the state motor 0's leaves. -/
theorem startBringsBothMotorsUp : Obligations.StartBringsBothMotorsUp := by
  intro s hc hv hw
  have h1 : (s.started.wrote .m0 0x0#4 true 0x0#4).writeAnswer .m1 = .ok := by simpa using hw .m1
  rw [exec_start_valid hc hv, bringUp_of_ok (hw .m0), seqStop_ok h1]
  rfl

/-- Settles O56: by the policy and the motors whose writes fail; motor 1's answer and the policy are not touched by
motor 0's part. -/
theorem startBringUpWriteFails : Obligations.StartBringUpWriteFails := by
  intro s d d' hc hv
  rw [exec_start_valid hc hv]
  refine ⟨fun hp => ⟨fun h0 => ?_, fun h0 h1 => ?_⟩, fun hp => ⟨fun h0 h1 => ?_, fun h0 h1 => ?_, fun h0 h1 => ?_⟩⟩
  · rw [bringUp_of_failed_halt h0 hp hc.1]
    rfl
  · rw [bringUp_of_ok h0, seqStop_failed_halt (d := d) (by simpa using h1) (by simpa using hp) (by simpa using hc.1)]
    rfl
  · rw [bringUp_of_failed_skip h0 hp, seqStop_ok (by simpa using h1)]
    rfl
  · rw [bringUp_of_ok h0, seqStop_failed_skip (d := d) (by simpa using h1) (by simpa using hp)]
    rfl
  · rw [bringUp_of_failed_skip h0 hp, seqStop_failed_skip (d := d') (by simpa using h1) (by simpa using hp)]
    rfl

end Sys2Proof.Machine

/-! ## Faults, phases and halting (spec/60_exceptions.md)

The idle block, the phase check and the halted block; what a command that faults records; then a TICK that meets a
failed call, under HALT and under SKIP. -/

namespace Sys2Proof.Machine

variable {s t : State} {w : Word} {m : Motor} {i : Instr} {q : Nat} {c : List EnvCall} {x d : BitVec 16}
  {dir : Dir} {l : Pattern}

/-! ### The idle block and the phase check (R130, R148) -/

/-- Settles O9: nothing is taken from the host. -/
theorem idleBlockHoldsItsState : Obligations.IdleBlockHoldsItsState := fun _ hh => step_idle hh

/-- R123: RDREG of a number that reads puts the value in RESULT, in every state. -/
theorem exec_rdreg_some {r : BitVec 8} {v : Word} (h : s.regRead r = some v) :
    exec (.rdreg r) s = .next (s.setResult v) := by
  simp only [exec, execRdreg, h]

/-- Settles O13: the commands of a phase check it first; NOP and RDREG check none. -/
theorem phaseCheck : Obligations.PhaseCheck := by
  intro s hh
  refine ⟨fun hrun m x => ?_, fun hrun r v => ?_, rfl, fun r v hv => exec_rdreg_some hv⟩
  · have hc : Configuring s := ⟨hh, hrun⟩
    exact ⟨inRunPhase_configuring _ hc, inRunPhase_configuring _ hc, inRunPhase_configuring _ hc,
      inRunPhase_configuring _ hc, inRunPhase_configuring _ hc⟩
  · have hr : Running s := ⟨hh, hrun⟩
    exact ⟨congrArg Host.Outcome.next (inConfigPhase_running _ hr),
      congrArg Host.Outcome.next (inConfigPhase_running _ hr)⟩

/-! ### The halted block (R131, R133) -/

/-- R131: a word that decodes to a command performs it. -/
theorem performWord_of_instr (h : decodeWord w = .instr i) : performWord w s = exec i s := by
  simp only [performWord, h]

/-- R133: while HALTED no command has an effect but RDREG of a number that reads. -/
theorem exec_of_halted (hh : s.status.halted = true) (hi : ∀ r v, i = .rdreg r → s.regRead r ≠ some v) :
    exec i s = .next s := by
  cases i with
  | nop => rfl
  | rdreg r =>
    have hr : s.regRead r = none := Option.eq_none_iff_forall_ne_some.2 fun v => hi r v rfl
    simp only [exec, execRdreg, hr, raise_of_halted _ hh]
  | wrcfg | start => exact congrArg Host.Outcome.next (inConfigPhase_halted _ hh)
  | stepf | stepb | stop | decode | tick => exact inRunPhase_halted _ hh

/-- R131, R133: nor has any word, an ILLEGAL one among them. -/
theorem performWord_of_halted (hh : s.status.halted = true)
    (hi : ∀ r v, decodeWord w = .instr (.rdreg r) → s.regRead r ≠ some v) : performWord w s = .next s := by
  cases hw : decodeWord w with
  | instr i =>
    rw [performWord_of_instr hw]
    exact exec_of_halted hh fun r v h => hi r v (h ▸ hw)
  | illegal why => rw [performWord_of_illegal hw, raise_of_halted _ hh]

/-- The host is not of the block: no register reads otherwise. -/
theorem regRead_setHost (items : List HostInput) (n : BitVec 8) : (s.setHost items).regRead n = s.regRead n :=
  regRead_eq_of_same (chan_setHost s · items) rfl rfl rfl rfl rfl rfl rfl n

/-- Settles O14: by whether the word is RDREG of a number that reads. -/
theorem haltedBlockIgnoresCommands : Obligations.HaltedBlockIgnoresCommands := by
  intro s w rest hrst hh hhost
  rw [step_offered hhost, acceptInput_command (s := s.setHost rest) hrst]
  refine ⟨fun r v hw hv => ?_, fun hi => performWord_of_halted (s := s.setHost rest) hh fun r v hw => ?_⟩
  · rw [performWord_of_instr hw, exec_rdreg_some ((regRead_setHost rest r).trans hv)]
  · rw [regRead_setHost]
    exact hi r v hw

/-- R133, R141: in a halted block a word leaves STATUS and FAULT_CMD. -/
theorem performWord_keeps_fault (hh : s.status.halted = true) (h : performWord w s = .next t) :
    t.status = s.status ∧ t.faultCmd = s.faultCmd := by
  by_cases hi : ∃ r v, decodeWord w = .instr (.rdreg r) ∧ s.regRead r = some v
  · obtain ⟨r, v, hw, hv⟩ := hi
    rw [performWord_of_instr hw, exec_rdreg_some hv, Host.Outcome.next.injEq] at h
    subst h
    exact ⟨rfl, rfl⟩
  · rw [performWord_of_halted hh fun r v hw hv => hi ⟨r, v, hw, hv⟩, Host.Outcome.next.injEq] at h
    subst h
    exact ⟨rfl, rfl⟩

/-- R133, R151: so does every item of the host's that does not reset the block. -/
theorem acceptInput_keeps_fault {x : HostInput} (hx : x.resets = false) (hh : s.status.halted = true)
    (h : acceptInput x s = .next t) : t.status = s.status ∧ t.faultCmd = s.faultCmd := by
  cases x with
  | rst | commandCut => simp [HostInput.resets] at hx
  | command w =>
    cases hrst : s.rst with
    | false =>
      rw [acceptInput_command hrst] at h
      exact performWord_keeps_fault hh h
    | true =>
      simp only [acceptInput, hrst, if_true, Host.Outcome.next.injEq] at h
      exact ⟨by rw [h], by rw [h]⟩

/-- Settles O15: an idle step leaves the state, and any other takes an item that does not reset the block. -/
theorem onlyResetLeavesHalted : Obligations.OnlyResetLeavesHalted := by
  intro s t hh hnr ht
  have hkeeps : t.status = s.status ∧ t.faultCmd = s.faultCmd := by
    cases hhost : s.host with
    | nil =>
      rw [step_idle hhost, Host.Outcome.next.injEq] at ht
      exact ⟨by rw [ht], by rw [ht]⟩
    | cons x rest =>
      rw [step_offered hhost] at ht
      exact acceptInput_keeps_fault (s := s.setHost rest) (hnr x rest hhost) hh ht
  obtain ⟨hstatus, hcmd⟩ := hkeeps
  rw [hstatus]
  exact ⟨hh, rfl, rfl, hcmd⟩

/-! ### What a command that faults records (R129, R132) -/

/-- The fault recorded in `t` is of the word `w`, has a cause, and names motor 0 where the cause names no motor. -/
def FaultedBy (w : Word) (t : State) : Prop :=
  t.faultCmd = w ∧ t.status.cause ≠ .none ∧
    (t.status.cause = .illegalCmd ∨ t.status.cause = .cfgInvalid → t.status.faultM = .m0)

theorem faultedBy_faulted {cause : Cause} (hn : cause ≠ .none)
    (hm : cause = .illegalCmd ∨ cause = .cfgInvalid → m = .m0) : FaultedBy w (s.faulted w cause m) :=
  ⟨rfl, hn, hm⟩

/-- R132: a stop that halts the block has recorded its word. -/
theorem StopPart.faultedBy {r : Flow Unit} (h : StopPart w m s r) (hs : s.status.halted = false)
    (ht : r.final.status.halted = true) : FaultedBy w r.final := by
  cases h with
  | halts => exact faultedBy_faulted (by decide) (by simp)
  | stops | skipped => simp [hs] at ht

/-- R132: so has a step. -/
theorem StepPart.faultedBy {r : Flow Bool} (h : StepPart w m dir s r) (hs : s.status.halted = false)
    (ht : r.final.status.halted = true) : FaultedBy w r.final := by
  cases h with
  | halts => exact faultedBy_faulted (by decide) (by simp)
  | steps | skipped => simp [hs] at ht

/-- R132: and a motor's part of a TICK. -/
theorem TickPart.faultedBy {r : Flow Unit} (h : TickPart w m s r) (hs : s.status.halted = false)
    (ht : r.final.status.halted = true) : FaultedBy w r.final := by
  cases h with
  | sampleHalts | outOfRange | stopHalts | stepHalts => exact faultedBy_faulted (by decide) (by simp)
  | sampleSkipped | stops | stopSkipped | waits | steps | stepSkipped => simp [hs] at ht

/-- R132: a whole TICK is halted by one motor's part; the increments halt nothing. -/
theorem execTick_faultedBy (hr : Running s) (h : execTick s = .next t) (ht : t.status.halted = true) :
    FaultedBy (encode .tick) t := by
  rcases execTick_cases hr h with h0 | ⟨u, h0, h1⟩ | ⟨u, v, h0, h1, rfl⟩
  · exact h0.faultedBy hr.1 ht
  · exact (tickMotor_part (h0.running hr) h1).faultedBy (h0.running hr).1 ht
  · have hv : Running v := (tickMotor_part (h0.running hr) h1).running (h0.running hr)
    simp [advance, hv.1] at ht

/-- R132: START's bring-up is halted by one motor's stop. -/
theorem BringUp.faultedBy (h : BringUp w s t) (hs : s.status.halted = false) (ht : t.status.halted = true) :
    FaultedBy w t := by
  cases h with
  | first _ h0 => exact h0.faultedBy hs ht
  | both u r _ hu h1 => exact h1.faultedBy hu ht

/-- R132: whatever way a command ends, if it halts the block it has recorded its word and kept RESULT. -/
theorem ExecPart.faultedBy (h : ExecPart i s t) (hs : s.status.halted = false) (ht : t.status.halted = true) :
    FaultedBy (encode i) t ∧ t.result = s.result := by
  cases h with
  | unchanged | reads | decodes | writes => simp [hs] at ht
  | illegal | invalid => exact ⟨faultedBy_faulted (by decide) fun _ => rfl, rfl⟩
  | outOfRange => exact ⟨faultedBy_faulted (by decide) (by simp), rfl⟩
  | steps _ _ _ _ _ _ h => exact ⟨h.faultedBy hs ht, h.keeps_result⟩
  | stops _ _ _ _ h => exact ⟨h.faultedBy hs ht, h.keeps_result⟩
  | ticks _ hr hi h => exact ⟨hi ▸ execTick_faultedBy hr h ht, execTick_keeps_result hr h⟩
  | starts _ _ _ _ h => exact ⟨h.faultedBy hs ht, h.keeps_result⟩

/-- Settles O17: way by way a command can end. -/
theorem faultKeepsCommandWordAndResult : Obligations.FaultKeepsCommandWordAndResult := by
  intro i s t h hs ht
  obtain ⟨⟨hcmd, hcause, hm⟩, hresult⟩ := (exec_part h).faultedBy hs ht
  exact ⟨hcmd, hcause, hresult, hm⟩

/-! ### A TICK that meets a failed sample under HALT (R134, R136) -/

/-- R110, R136: a motor's part of a TICK whose sample fails under HALT ends there, only the sample asked for. -/
theorem tickMotor_failed_sample (hr : Running s) (hp : s.errPolicy = .halt) (hs : s.sampleAnswer m = .failed) :
    tickMotor w m s = .ok (.ended ((sampleRead m s).faulted w .ioSample m)) := by
  simp only [tickMotor, hs]
  rw [ioError_halt _ (by simpa using hp) (by simpa using hr.1)]

/-- R132: recording a fault writes STATUS and FAULT_CMD alone. -/
theorem regRead_faulted_of_ne (cause : Cause) {n : BitVec 8} (hstatus : n ≠ 0x10#8) (hcmd : n ≠ 0x1A#8) :
    (s.faulted w cause m).regRead n = s.regRead n := by
  refine regRead_congr fun r hn => ?_
  subst hn
  cases r with
  | rw r => exact readCfg_faulted cause r
  | ro r =>
    cases r with
    | status => exact absurd rfl hstatus
    | faultCmd => exact absurd rfl hcmd
    | ioerrCnt => rfl
    | idx | coil | elapsed | cmd => simp only [State.readReg, State.readRo, chan_faulted]

/-- R11: asking for a sample writes no register. -/
theorem regRead_sampleRead (n : BitVec 8) : (sampleRead m s).regRead n = s.regRead n :=
  regRead_eq_of_same (chan_sampleRead m) sampleRead_minDelay sampleRead_maxDelay sampleRead_tickQ sampleRead_ctrl
    sampleRead_status sampleRead_ioerrCnt sampleRead_faultCmd n

/-- Settles O42: motor 0's part ends the TICK at its sample. -/
theorem tickFirstSampleFailsUnderHalt : Obligations.TickFirstSampleFailsUnderHalt := by
  intro s hr hp hs
  refine ⟨_, execTick_first hr (tickMotor_failed_sample hr hp hs), ?_, rfl, fun n hstatus hcmd => ?_, ?_, ?_⟩
  · rw [faulted_status, sampleRead_status]
  · rw [regRead_faulted_of_ne _ hstatus hcmd, regRead_sampleRead]
  · exact sampleRead_result
  · simp [hs]

/-- Settles O43: motor 0's part leads to motor 1's, which ends the TICK at its sample before the increments. -/
theorem tickSecondSampleFailsUnderHalt : Obligations.TickSecondSampleFailsUnderHalt := by
  intro s x hr hp hcan hx hs
  obtain ⟨r, hr0⟩ := tickMotor_ok (w := encode .tick) hcan
  obtain ⟨u, c, rfl, h, hticked⟩ := (tickMotor_part hr hr0).reaches_other hr hcan hx
  have h : TickReaches s u .m1 c := h
  have hsu : u.sampleAnswer .m1 = .failed := by rwa [State.sampleAnswer, h.env]
  have hm0 : MotorTicked s ((sampleRead .m1 u).faulted (encode .tick) .ioSample .m1) .m0 0 c :=
    hticked _ (by simp) (by simp)
  refine ⟨_, c, execTick_second hr hr0 (tickMotor_failed_sample h.running (h.errPolicy.trans hp) hsu), ?_, rfl, hm0,
    ?_, ?_, ?_, ?_, ?_, ?_, ?_, fun dir d hd hg => ?_⟩
  · rw [faulted_status, sampleRead_status, h.status]
  · simp [h.chan]
  · simp [h.env]
  · simp [h.calls, hsu]
  · simp [h.ioerrCnt]
  · simp [h.result]
  · simp [h.host]
  · simp [h.rst]
  · have hw := hx.writeAnswer hx.1 hd fun dir' d' h => (command_inj h).2 ▸ hg
    obtain ⟨hchan, -⟩ := hm0.of_open hx.1 hd hg hw
    exact ⟨by rw [hchan], by rw [hchan], by rw [State.index, hchan]; exact toNat_ofNat_nextIndex dir, by rw [hchan]⟩

/-! ### A TICK that meets failed calls under SKIP (R137, R140) -/

/-- R136, R137: under SKIP a motor's part that reads no unpopulated ROM entry and finds no LOGIC_RANGE goes on. -/
theorem TickPart.goes_on {r : Flow Unit} (h : TickPart w m s r) (hp : s.errPolicy = .skip) (hc : CanTick s m) :
    ∃ u, r = .cont () u := by
  cases h with
  | sampleHalts _ hp' | stopHalts _ _ _ _ _ hp' | stepHalts _ _ _ _ _ _ _ _ _ hp' => simp [hp] at hp'
  | outOfRange x hs hd =>
    obtain ⟨cmd, hd', -⟩ := hc x hs
    simp [hd] at hd'
  | sampleSkipped | stops | stopSkipped | waits | steps | stepSkipped => exact ⟨_, rfl⟩

/-- R118: what the other motor is to carry out is not touched. -/
theorem TickPart.canTick_other {r : Flow Unit} (h : TickPart w m s r) (hc : CanTick s m.other) :
    CanTick r.final m.other := by
  obtain ⟨hchan, -⟩ := h.leaves_other
  simpa only [CanTick, h.sampleAnswer_other, h.tickKeeps.calib, State.index, State.len, hchan] using hc

/-- R137: under SKIP such a TICK goes on to its end whatever the answers: both motors' parts and both increments are
done, and every failure is counted. -/
theorem execTick_skip (hr : Running s) (hp : s.errPolicy = .skip) (hm : CanTick s m) (ho : CanTick s m.other) :
    ∃ t c, execTick s = .next t ∧ TickRecord s t c ∧ ∀ m, MotorTicked s t m s.tickQ.toNat (c m) := by
  have hc : CanTick s .m0 ∧ CanTick s .m1 := by
    cases m with
    | m0 => exact ⟨hm, ho⟩
    | m1 => exact ⟨ho, hm⟩
  obtain ⟨hc0, hc1⟩ := hc
  obtain ⟨r, h0⟩ := tickMotor_ok (w := encode .tick) hc0
  have hp0 := tickMotor_part hr h0
  obtain ⟨u, rfl⟩ := hp0.goes_on hp hc0
  have hcu : CanTick u .m1 := hp0.canTick_other hc1
  obtain ⟨r, h1⟩ := tickMotor_ok (w := encode .tick) hcu
  have hp1 := tickMotor_part (hp0.running hr) h1
  obtain ⟨v, rfl⟩ := hp1.goes_on (hp0.tickKeeps.errPolicy.trans hp) hcu
  have ht := execTick_both hr h0 h1
  have hv : Running v := hp1.running (hp0.running hr)
  obtain ⟨c, hrecord, hticked⟩ := execTick_ticked hr ht (by simpa [advance] using hv.1)
  exact ⟨_, c, ht, hrecord, hticked⟩

/-- R137, first item: its sample having failed, only the motor's counter moves. -/
theorem MotorTicked.of_skipped (h : MotorTicked s t m q c) (hs : s.sampleAnswer m = .failed) :
    t.chan m = { s.chan m with elapsed := countedBy (s.chan m).elapsed q } ∧ t.env m = (s.env m).afterSample ∧
    c = [.sampleRead m .failed] := by
  simpa [tickOutcome, hs, eq_comm] using h.eq_outcome

/-- R137, second item: the gate open and the write failed, the draw is left, and the index stays. -/
theorem MotorTicked.of_step_failed (h : MotorTicked s t m q c) (hs : s.sampleAnswer m = .ok x)
    (hd : (s.calib m).decode x = some (dir.command d)) (hg : d.toNat ≤ (s.chan m).elapsed.toNat)
    (hw : s.writeAnswer m = .failed l) :
    t.chan m = { s.chan m with cmd := dir.command d, coil := l, elapsed := countedBy (s.chan m).elapsed q } ∧
    t.env m = { (s.env m).afterSample.afterWrite with pins := l } ∧
    c = [.sampleRead m (.ok x), .outWrite m (s.entry m (s.index m)) false] := by
  simpa [tickOutcome_command hs hd, steppedOutcome, Nat.not_lt.2 hg, hw, eq_comm] using h.eq_outcome

/-- R137, third item: told to stop and the write failed, the draw is left. -/
theorem MotorTicked.of_stop_failed (h : MotorTicked s t m q c) (hs : s.sampleAnswer m = .ok x)
    (hd : (s.calib m).decode x = some .stop) (hw : s.writeAnswer m = .failed l) :
    t.chan m = { s.chan m with cmd := .stop, coil := l, elapsed := countedBy (s.chan m).elapsed q } ∧
    t.env m = { (s.env m).afterSample.afterWrite with pins := l } ∧
    c = [.sampleRead m (.ok x), .outWrite m 0x0#4 false] := by
  simpa [tickOutcome, hs, hd, hw, levelOf, ackOf, eq_comm] using h.eq_outcome

/-- Settles O44: the TICK goes on to its end, and the motor whose sample failed was skipped. -/
theorem tickSkipsAFailedSample : Obligations.TickSkipsAFailedSample := by
  intro s m hr hp hs ho
  obtain ⟨t, c, ht, hrecord, hm⟩ := execTick_skip hr hp (canTick_of_failed hs) ho
  obtain ⟨hchan, henv, hcm⟩ := (hm m).of_skipped hs
  exact ⟨t, c, ht, hrecord, hcm, hchan, henv, hm m.other⟩

/-- R112: a gate that is open stays open while the counter runs on, a delay having 16 bits. -/
theorem delay_le_countedBy {e : BitVec 32} (h : d.toNat ≤ e.toNat) (q : Nat) : d.toNat ≤ (countedBy e q).toNat := by
  have := d.isLt
  rw [countedBy_toNat]
  omega

/-- Settles O45: the TICK goes on to its end, and the motor's write, of a step or of a stop, had failed. -/
theorem tickRetriesAFailedStep : Obligations.TickRetriesAFailedStep := by
  intro s m x l hr hp hs hw ho
  refine ⟨fun dir d hd hg hi => ?_, fun hd => ?_⟩
  · obtain ⟨t, c, ht, hrecord, hm⟩ := execTick_skip hr hp (canTick_of_sample hs hd (.inr hi)) ho
    obtain ⟨hchan, henv, hcm⟩ := (hm m).of_step_failed hs hd hg hw
    exact ⟨t, c, ht, hrecord, hcm, hchan, henv, by rw [hchan]; exact delay_le_countedBy hg _, hm m.other⟩
  · obtain ⟨t, c, ht, hrecord, hm⟩ := execTick_skip hr hp (canTick_of_sample hs hd (.inl rfl)) ho
    obtain ⟨hchan, henv, hcm⟩ := (hm m).of_stop_failed hs hd hw
    exact ⟨t, c, ht, hrecord, hcm, hchan, henv, hm m.other⟩

end Sys2Proof.Machine

/-! ## Reset (spec/70_reset_and_hazards.md)

The reset values; then what a command asks of its surroundings, which is all that is left of one that `rst` cut
short. -/

namespace Sys2Proof.Machine

variable {s t u : State} {w : Word} {m : Motor} {i : Instr} {c : List EnvCall}

/-! ### The reset values (R151, R152) -/

/-- R152: a block that a reset would not change shows the reset values. -/
theorem atResetValues_of_reset (h : resetRegisters s = s) : AtResetValues s := by
  have hstatus : State.reset.status.word = 0#32 := by decide
  rw [← h]
  refine ⟨fun m => ?_, rfl, rfl, rfl, rfl, hstatus, rfl, rfl, rfl⟩
  cases m <;> exact ⟨rfl, rfl, rfl, rfl, rfl, rfl, rfl, rfl, rfl⟩

/-- R151: such a block is in the configuration phase, not halted. -/
theorem configuring_of_reset (h : resetRegisters s = s) : Configuring s := by
  rw [← h]
  exact ⟨rfl, rfl⟩

/-- R151: releasing an asserted `rst` resets every register. -/
theorem releaseReset_of_asserted (h : s.rst = true) :
    releaseReset s = { resetRegisters s with rst := false } := by simp [releaseReset, h]

/-- Settles O58: the reset state is one that a reset would not change. -/
theorem resetStateIsSafe : Obligations.ResetStateIsSafe := .of_reset rfl

/-- Settles O10: the reset state is one that a reset would not change. -/
theorem resetStateHasResetValues : Obligations.ResetStateHasResetValues :=
  ⟨atResetValues_of_reset rfl, configuring_of_reset rfl⟩

/-- Settles O11: either change of the level leaves a block that a reset would not change, its record of calls kept. -/
theorem assertingResetResetsEveryRegister : Obligations.AssertingResetResetsEveryRegister := by
  refine fun s rest => ⟨fun hh => ?_, fun hh hrst => ?_⟩
  · exact ⟨assertReset (s.setHost rest), step_offered hh, atResetValues_of_reset rfl, configuring_of_reset rfl,
      rfl, rfl, rfl⟩
  · have ht : step s = .next (releaseReset (s.setHost rest)) := step_offered hh
    rw [releaseReset_of_asserted (s := s.setHost rest) hrst] at ht
    exact ⟨_, ht, atResetValues_of_reset rfl, configuring_of_reset rfl, rfl, rfl, rfl⟩

/-! ### Calls repeated (R43, R151) -/

@[simp] theorem env_outWrite (p : Pattern) (m m' : Motor) : (outWrite m p s).env m' =
    if m' = m then { (s.env m).afterWrite with pins := levelOf p (s.writeAnswer m) } else s.env m' := by
  simp [outWrite]

@[simp] theorem outWrite_calls (p : Pattern) :
    (outWrite m p s).calls = s.calls ++ [.outWrite m p (ackOf (s.writeAnswer m))] := by simp [outWrite]

/-- `t` has the surroundings and the record of calls of `s`; its registers may be others. -/
structure SameOutside (s t : State) : Prop where
  env : ∀ m, t.env m = s.env m
  calls : t.calls = s.calls

theorem SameOutside.trans (h : SameOutside s t) (h' : SameOutside t u) : SameOutside s u :=
  ⟨fun m => (h'.env m).trans (h.env m), h'.calls.trans h.calls⟩

/-- R11: what a call does outside the registers depends on nothing but what is outside them. -/
theorem sameOutside_repeatCall (h : SameOutside s t) (e : EnvCall) : SameOutside (repeatCall s e) (repeatCall t e) := by
  cases e with
  | sampleRead m a =>
    exact ⟨by simp [repeatCall, h.env], by simp [repeatCall, State.sampleAnswer, h.env, h.calls]⟩
  | outWrite m p ok =>
    exact ⟨by simp [repeatCall, State.writeAnswer, h.env], by simp [repeatCall, State.writeAnswer, h.env, h.calls]⟩

theorem sameOutside_foldl_repeatCall (h : SameOutside s t) (c : List EnvCall) :
    SameOutside (c.foldl repeatCall s) (c.foldl repeatCall t) := by
  induction c generalizing s t with
  | nil => exact h
  | cons e c ih => exact ih (sameOutside_repeatCall h e)

theorem repeatCall_host (e : EnvCall) : (repeatCall s e).host = s.host := by
  cases e <;> simp [repeatCall, outWrite]

theorem host_foldl_repeatCall (c : List EnvCall) (s : State) : (c.foldl repeatCall s).host = s.host := by
  induction c generalizing s with
  | nil => rfl
  | cons e c ih => exact (ih _).trans (repeatCall_host e)

/-- R43: a call puts one call on record, with the answer that is due. -/
theorem calls_repeatCall (s : State) (e : EnvCall) : ∃ a, (repeatCall s e).calls = s.calls ++ [a] := by
  cases e with
  | sampleRead => exact ⟨_, sampleRead_calls⟩
  | outWrite => exact ⟨_, outWrite_calls _⟩

theorem calls_foldl_repeatCall (c : List EnvCall) (s : State) :
    ∃ c', (c.foldl repeatCall s).calls = s.calls ++ c' ∧ c'.length = c.length := by
  induction c generalizing s with
  | nil => exact ⟨[], by simp⟩
  | cons e c ih =>
    obtain ⟨a, ha⟩ := calls_repeatCall s e
    obtain ⟨c', hc', hlen⟩ := ih (repeatCall s e)
    exact ⟨a :: c', by simp [hc', ha], by simp [hlen]⟩

/-- R151: where repeating `c` puts `c` itself on record, repeating its first calls puts those on record. -/
theorem calls_foldl_take (h : (c.foldl repeatCall s).calls = s.calls ++ c) (k : Nat) :
    ((c.take k).foldl repeatCall s).calls = s.calls ++ c.take k := by
  obtain ⟨a, ha, hlen⟩ := calls_foldl_repeatCall (c.take k) s
  obtain ⟨b, hb, -⟩ := calls_foldl_repeatCall (c.drop k) ((c.take k).foldl repeatCall s)
  have hab : c.take k ++ c.drop k = a ++ b := by
    rw [← List.foldl_append, List.take_append_drop, h, ha, List.append_assoc] at hb
    rw [List.take_append_drop]
    exact List.append_cancel_left hb
  rw [ha, (List.append_inj hab hlen.symm).1]

/-! ### The answers that calls use up (R11, log entry 3) -/

/-- From `e` to `e'` the environment gave `i` samples and `j` write answers, the listed ones first. -/
def AnswersUsed (e e' : MotorEnv) (i j : Nat) : Prop :=
  e'.samples = e.samples.drop i ∧ e'.freeSamples = e.freeSamples + (i - e.samples.length) ∧
  e'.writes = e.writes.drop j ∧ e'.freeWrites = e.freeWrites + (j - e.writes.length)

theorem AnswersUsed.refl (e : MotorEnv) : AnswersUsed e e 0 0 := by simp [AnswersUsed]

theorem AnswersUsed.trans {e e' e'' : MotorEnv} {i j i' j' : Nat} (h : AnswersUsed e e' i j)
    (h' : AnswersUsed e' e'' i' j') : AnswersUsed e e'' (i + i') (j + j') := by
  obtain ⟨hs, hfs, hw, hfw⟩ := h
  obtain ⟨hs', hfs', hw', hfw'⟩ := h'
  rw [hs] at hs' hfs'
  rw [hw] at hw' hfw'
  rw [List.length_drop] at hfs' hfw'
  exact ⟨by rw [hs', List.drop_drop], by omega, by rw [hw', List.drop_drop], by omega⟩

theorem answersUsed_afterSample (e : MotorEnv) : AnswersUsed e e.afterSample 1 0 := by
  cases h : e.samples <;> simp [AnswersUsed, MotorEnv.afterSample, h]

theorem answersUsed_afterWrite (e : MotorEnv) (l : Pattern) : AnswersUsed e { e.afterWrite with pins := l } 0 1 := by
  cases h : e.writes <;> simp [AnswersUsed, MotorEnv.afterWrite, h]

/-- A call uses up one answer of its own kind and motor and nothing else. -/
theorem answersUsed_repeatCall (s : State) (e : EnvCall) (m : Motor) : AnswersUsed (s.env m) ((repeatCall s e).env m)
    ([e].countP (EnvCall.asksSample m)) ([e].countP (EnvCall.asksWrite m)) := by
  cases e with
  | sampleRead m' a =>
    by_cases hm : m = m'
    · subst hm
      simpa [repeatCall, EnvCall.asksSample, EnvCall.asksWrite] using answersUsed_afterSample (s.env m)
    · simpa [repeatCall, EnvCall.asksSample, EnvCall.asksWrite, hm, Ne.symm hm] using AnswersUsed.refl (s.env m)
  | outWrite m' p ok =>
    by_cases hm : m = m'
    · subst hm
      simpa [repeatCall, EnvCall.asksSample, EnvCall.asksWrite] using answersUsed_afterWrite (s.env m) _
    · simpa [repeatCall, EnvCall.asksSample, EnvCall.asksWrite, hm, Ne.symm hm] using AnswersUsed.refl (s.env m)

theorem answersUsed_foldl_repeatCall (c : List EnvCall) (s : State) (m : Motor) :
    AnswersUsed (s.env m) ((c.foldl repeatCall s).env m) (c.countP (EnvCall.asksSample m))
      (c.countP (EnvCall.asksWrite m)) := by
  induction c generalizing s with
  | nil => exact .refl _
  | cons e c ih =>
    rw [← List.singleton_append, List.countP_append, List.countP_append]
    exact (answersUsed_repeatCall s e m).trans (ih _)

/-! ### A command does no more outside the registers than its calls do (R11, R43) -/

/-- The calls on record in `t` and not in `s`, repeated from `s`, have the same answers and leave the same
surroundings. -/
def Replays (s t : State) : Prop := ∃ c, t.calls = s.calls ++ c ∧ SameOutside (c.foldl repeatCall s) t

theorem SameOutside.replays (h : SameOutside s t) : Replays s t := ⟨[], by simp [h.calls], h⟩

theorem Replays.trans (h : Replays s t) (h' : Replays t u) : Replays s u := by
  obtain ⟨c, hc, ht⟩ := h
  obtain ⟨c', hc', hu⟩ := h'
  refine ⟨c ++ c', by rw [hc', hc, List.append_assoc], ?_⟩
  rw [List.foldl_append]
  exact (sameOutside_foldl_repeatCall ht c').trans hu

/-- Writing registers asks for nothing. -/
theorem Replays.of_same (h : Replays s t) (he : ∀ m, u.env m = t.env m) (hc : u.calls = t.calls) : Replays s u :=
  h.trans (SameOutside.mk he hc).replays

theorem Replays.faulted (h : Replays s t) (cause : Cause) : Replays s (t.faulted w cause m) := h.of_same (by simp) rfl

theorem Replays.errorCounted (h : Replays s t) : Replays s t.errorCounted := h.of_same (by simp) rfl

theorem Replays.setIdx (h : Replays s t) (v : BitVec 3) : Replays s (t.setIdx m v) := h.of_same (by simp) (by simp)

theorem Replays.setElapsed (h : Replays s t) (v : BitVec 32) : Replays s (t.setElapsed m v) :=
  h.of_same (by simp) (by simp)

theorem replays_sampleRead : Replays s (sampleRead m s) :=
  ⟨[.sampleRead m (s.sampleAnswer m)], sampleRead_calls, ⟨fun _ => rfl, rfl⟩⟩

theorem replays_told (cmd : Command) : Replays s (told m cmd s) :=
  (replays_sampleRead (m := m)).of_same (by simp) (by simp)

/-- R77: a pattern write with the answer that is due. -/
theorem replays_wrote {p : Pattern} {a : WriteAnswer} (h : s.writeAnswer m = a) :
    Replays s (s.wrote m p (ackOf a) (levelOf p a)) :=
  ⟨[.outWrite m p (ackOf a)], by simp, ⟨by simp [repeatCall, h], by simp [repeatCall, h]⟩⟩

theorem replays_wrote_ok (h : s.writeAnswer m = .ok) (p : Pattern) : Replays s (s.wrote m p true p) := replays_wrote h

theorem replays_wrote_failed {l : Pattern} (h : s.writeAnswer m = .failed l) (p : Pattern) :
    Replays s (s.wrote m p false l) := replays_wrote h

theorem StopPart.replays {r : Flow Unit} (h : StopPart w m s r) : Replays s r.final := by
  cases h with
  | stops hw => exact replays_wrote_ok hw _
  | halts l hw => exact (replays_wrote_failed hw _).faulted _
  | skipped l hw => exact (replays_wrote_failed hw _).errorCounted

theorem StepPart.replays {dir : Dir} {r : Flow Bool} (h : StepPart w m dir s r) : Replays s r.final := by
  cases h with
  | steps hw => exact (replays_wrote_ok hw _).setIdx _
  | halts l hw => exact (replays_wrote_failed hw _).faulted _
  | skipped l hw => exact (replays_wrote_failed hw _).errorCounted

/-- R110: a motor's part of a TICK samples, and then perhaps writes with the answer that was due at its start. -/
theorem TickPart.replays {r : Flow Unit} (h : TickPart w m s r) : Replays s r.final := by
  have hok : ∀ {cmd p}, s.writeAnswer m = .ok → Replays s ((told m cmd s).wrote m p true p) := fun hw =>
    (replays_told _).trans (replays_wrote_ok (by simpa using hw) _)
  have hfailed : ∀ {cmd p l}, s.writeAnswer m = .failed l → Replays s ((told m cmd s).wrote m p false l) := fun hw =>
    (replays_told _).trans (replays_wrote_failed (by simpa using hw) _)
  cases h with
  | sampleHalts | outOfRange => exact replays_sampleRead.faulted _
  | sampleSkipped => exact replays_sampleRead.errorCounted
  | waits => exact replays_told _
  | stops x _ _ hw => exact hok hw
  | stopHalts x l _ _ hw => exact (hfailed hw).faulted _
  | stopSkipped x l _ _ hw => exact (hfailed hw).errorCounted
  | steps x d dir _ _ _ _ hw => exact ((hok hw).setIdx _).setElapsed _
  | stepHalts x d dir l _ _ _ _ hw => exact (hfailed hw).faulted _
  | stepSkipped x d dir l _ _ _ _ hw => exact (hfailed hw).errorCounted

/-- R110: a TICK is its parts, one after the other, and the increments. -/
theorem execTick_replays (hr : Running s) (ht : execTick s = .next t) : Replays s t := by
  rcases execTick_cases hr ht with h0 | ⟨u, h0, h1⟩ | ⟨u, v, h0, h1, rfl⟩
  · exact h0.replays
  · exact h0.replays.trans (tickMotor_part (h0.running hr) h1).replays
  · exact ((h0.replays.trans (tickMotor_part (h0.running hr) h1).replays).setElapsed _).setElapsed _

/-- R125: START's bring-up is one stop, or two. -/
theorem BringUp.replays (h : BringUp w s t) : Replays s t := by
  have hstarted : Replays s s.started := SameOutside.replays ⟨by simp, by simp⟩
  cases h with
  | first t h0 => exact hstarted.trans h0.replays
  | both u r h0 _ h1 => exact (hstarted.trans h0.replays).trans h1.replays

/-- R11, R43: whatever way a command ends, its calls account for all it did outside the registers. -/
theorem ExecPart.replays (h : ExecPart i s t) : Replays s t := by
  cases h with
  | unchanged => exact SameOutside.replays ⟨fun _ => rfl, rfl⟩
  | illegal | outOfRange | invalid | reads | decodes | writes => exact SameOutside.replays ⟨by simp, by simp⟩
  | steps _ _ _ _ _ _ h => exact h.replays
  | stops _ _ _ _ h => exact h.replays
  | ticks _ hr _ h => exact execTick_replays hr h
  | starts _ _ _ _ h => exact h.replays

/-- R132: recording a fault, or not, asks for nothing. -/
theorem raise_sameOutside (cause : Cause) : SameOutside s (raise w cause m s) := by
  cases hh : s.status.halted with
  | true =>
    rw [raise_of_halted _ hh]
    exact ⟨fun _ => rfl, rfl⟩
  | false =>
    rw [raise_eq_faulted _ hh]
    exact ⟨by simp, by simp⟩

/-- R131: the same of any word, an ILLEGAL one among them. -/
theorem performWord_replays (h : performWord w s = .next t) : Replays s t := by
  cases hw : decodeWord w with
  | instr i =>
    rw [performWord_of_instr hw] at h
    exact (exec_part h).replays
  | illegal why =>
    rw [performWord_of_illegal hw, Host.Outcome.next.injEq] at h
    subst h
    exact (raise_sameOutside _).replays

/-! ### A command cut short (R151) -/

/-- R153: letting go of the pins uses up no answer. -/
theorem answersUsed_undriven {e e' : MotorEnv} {i j : Nat} (h : AnswersUsed e e' i j) (m : Motor) :
    AnswersUsed e (e'.undriven m) i j := h

theorem env_assertReset (s : State) (m : Motor) : (assertReset s).env m = (s.env m).undriven m := by cases m <;> rfl

/-- R151: a command cut after `k` calls leaves reset registers and its first `k` calls. -/
theorem cutCommand_of_calls (h : performWord w s = .next t) (hc : t.calls = s.calls ++ c) (k : Nat) :
    cutCommand w k s = .next (assertReset ((c.take k).foldl repeatCall s)) := by
  simp [cutCommand, h, callsMade, hc]

/-- Settles O12: the whole command's calls, repeated, have the answers they had; so have the first `k`, each using up
one answer (log entry 10). -/
theorem abandonedCommandMadeItsFirstCalls : Obligations.AbandonedCommandMadeItsFirstCalls := by
  intro s t w k rest hrst hh ht
  obtain ⟨c, hcalls, hsame⟩ := performWord_replays ht
  have hdrop : t.calls.drop s.calls.length = c := by simp [hcalls]
  rw [hdrop]
  refine ⟨assertReset ((c.take k).foldl repeatCall (s.setHost rest)), ?_, atResetValues_of_reset rfl, rfl,
    host_foldl_repeatCall _ _, calls_foldl_take (hsame.calls.symm.trans hcalls) k, fun m => ?_, fun hk m => ?_⟩
  · rw [step_offered hh, acceptInput_commandCut (s := s.setHost rest) hrst, cutCommand_of_calls ht hcalls]
  · rw [env_assertReset, ← env_setHost s m rest]
    exact answersUsed_undriven (answersUsed_foldl_repeatCall _ _ m) m
  · rw [env_assertReset, List.take_of_length_le hk, hsame.env m]
    exact ⟨rfl, rfl⟩

end Sys2Proof.Machine
